-- ==== Sys2Proof/Word.lean ====
section
/-! DEFINITION. The two value types of the block (00_scope R6): the byte `u8` and the word `u16`, both unsigned. -/

namespace Sys2Proof

/-- A byte, `u8` (00_scope R6). -/
abbrev Byte := BitVec 8

/-- A word, `u16`: the CRC accumulator and every CRC value (00_scope R6). -/
abbrev Word := BitVec 16

end Sys2Proof
end

