-- ==== Sys2Proof/Config.lean ====
section
/-! DEFINITION. What is fixed while the block runs: the two protocol variants, the hardwired constants and the open
parameters as one record (the given values are in Machine/Constants.lean), and the free values. -/

namespace Sys2Proof

/-- The two protocol variants (00_scope R4). -/
inductive Variant where
  /-- `V2_CRC`, the CRC-checked mainline variant. -/
  | v2Crc
  /-- `V1_EARLY`, the earlier variant. -/
  | v1Early
deriving DecidableEq, Repr

/-- One row of the Response Table (30_encoding R50): a recognized code and its template. -/
structure ResponseRow where
  code : Byte
  template : List Byte
deriving DecidableEq, Repr

/-- `RESP_TABLE`: the closed set of recognized commands (30_encoding R50, R53), one row for each. The codes and the
templates are configuration (00_scope R3, 42_command_mux R106); that there are these five commands is not. -/
structure ResponseTable where
  queryId : ResponseRow
  abortTx : ResponseRow
  applyCfg : ResponseRow
  sendData : ResponseRow
  queryBurst : ResponseRow
deriving DecidableEq, Repr

/-- The hardwired constants (00_scope R3, 10_state R18): the rules use these names and never the literals, so that a
corrected literal is another value of this record and changes no rule (91 N1, 93 U19; entry 14). `CRC_WIDTH` and
`CRC_LEN` are not here: they are the type `Word` and its two bytes. -/
structure Constants where
  /-- `SYNC`, first byte of every frame. -/
  sync : Byte
  /-- `CRC_INIT_VAL`. -/
  crcInit : Word
  /-- `POLY_REFLECTED`. -/
  polyReflected : Word
  /-- `CRC_XOROUT`, the final complement as an XOR mask. -/
  crcXorout : Word
  /-- `CMD_INDEX`, byte index of the command code. -/
  cmdIndex : Nat
  /-- The least buffer length of `V1_EARLY` (00_scope R5). -/
  minLenV1 : Nat
  /-- `TX_MAX`, capacity of the outbound buffer. -/
  txMax : Nat
  /-- `RESP_TABLE`. -/
  respTable : ResponseTable
  /-- `FALLBACK`. -/
  fallback : List Byte
deriving DecidableEq, Repr

/-- Everything that is fixed while the block runs: the hardwired constants (93 U19) and the parameters the spec leaves
open (00_scope section 4; 92 D5, D6, D8, D10; entry 1). It is part of `State`, so that a statement about every state is a
statement about every value of it. -/
structure Params where
  /-- The hardwired constants. -/
  consts : Constants
  /-- `VARIANT`, the strap. -/
  variant : Variant
  /-- `MIN_LEN_V2`, the least buffer length `V2_CRC` accepts; legal values 2 to 5. -/
  minLenV2 : Nat
  /-- `V1_VERIFY_RX_CRC`, whether `V1_EARLY` verifies the inbound CRC. -/
  v1VerifyRxCrc : Bool
  /-- `RX_MAX`, the capacity of the inbound buffer: `none` is unbounded, `some m` is `m` bytes, at least 5. -/
  rxMax : Option Nat
deriving DecidableEq, Repr

/-- Free values: what a 16-bit register holds where the spec leaves it unspecified (70_reset R150; entry 3).
No body: nothing is known of its values. -/
opaque Config.freeWord : Nat → Word

/-- Free values for the 8-bit register `CMD` (70_reset R150; entry 3). -/
opaque Config.freeByte : Nat → Byte

/-- Free values for an index register (70_reset R150; entry 3). -/
opaque Config.freeIndex : Nat → Nat

/-- Free values of the pin `tx_data` while `tx_valid` is 0 (43_port_operations R115; entry 20). Each pin has a constant of
its own, so that nothing relates its value to a register's after a reset or to another pin's. -/
opaque Config.freeTxData : Nat → Byte

/-- Free values of the pin `diag_kind` without an event (43_port_operations R121; entry 20). -/
opaque Config.freeDiagKind : Nat → BitVec 3

/-- Free values of the pin `diag_code` where it is not meaningful (43_port_operations R121; entry 20). -/
opaque Config.freeDiagCode : Nat → Byte

/-- Free values of the pin `diag_computed` where it is not meaningful (43_port_operations R121; entry 20). -/
opaque Config.freeDiagComputed : Nat → Word

/-- Free values of the pin `diag_claimed` where it is not meaningful (43_port_operations R121; entry 20). -/
opaque Config.freeDiagClaimed : Nat → Word

end Sys2Proof
end

