-- ==== Sys2Proof/Machine/Constants.lean ====
section
/-! DEFINITION. The given values of the hardwired constants, the Response Table ROM, which values are legal, and the
feature values that `VARIANT` selects. -/

namespace Sys2Proof.Machine

/-- The constants with the values the spec transcribes (00_scope section 4, 30_encoding R50; the literals are unaudited,
entry 14). -/
def constants : Constants where
  sync := 0xAA
  crcInit := 0xFFFF
  polyReflected := 0x8408
  crcXorout := 0xFFFF
  cmdIndex := 2
  minLenV1 := 5
  txMax := 9
  respTable :=
    { queryId := { code := 0x01, template := [0xAA, 0x09, 0x01, 0x00, 0x23, 0x18, 0x60] }
      abortTx := { code := 0x03, template := [0xAA, 0x05, 0x03] }
      applyCfg := { code := 0x06, template := [0xAA, 0x05, 0x06] }
      sendData := { code := 0x00, template := [0xAA, 0x05, 0x00] }
      queryBurst := { code := 0x04, template := [0xAA, 0x06, 0x04, 0x00] } }
  fallback := [0xAA, 0xFF, 0xFF]

/-- `CRC_LEN`: a 16-bit CRC occupies two bytes of a frame (00_scope section 4). -/
def crcLen : Nat := 2

/-- The rows of the Response Table, in the source's order (30_encoding R50). -/
def tableRows (k : Constants) : List ResponseRow :=
  [k.respTable.queryId, k.respTable.abortTx, k.respTable.applyCfg, k.respTable.sendData, k.respTable.queryBurst]

/-- Every template of the block: those of the table, then `FALLBACK`. -/
def templates (k : Constants) : List (List Byte) :=
  (tableRows k).map (·.template) ++ [k.fallback]

/-- `MemRead(ROM:c, 1)`: the pair (known, template) (10_state R19). -/
def romRead (k : Constants) (c : Byte) : Bool × List Byte :=
  match (tableRows k).find? (fun r => r.code == c) with
  | some r => (true, r.template)
  | none => (false, k.fallback)

/-- A template has the sync byte, a length/metadata byte and the echo, and fits `TXBUF` sealed (30_encoding R51,
20_memory R38). -/
def templateFits (k : Constants) (template : List Byte) : Bool :=
  decide (3 ≤ template.length) && decide (template.length + crcLen ≤ k.txMax)

/-- Constants that the rules hold together for (entry 28): a command frame has one byte between `SYNC` and `CODE`
(30_encoding R46); `MIN_LEN` is 2 to 5 (10_state R18, 20_memory R37); `TXLEN` and `TXPTR` have 4 bits (10_state section 4);
the five codes are different (30_encoding R53); every response fits (20_memory R38). -/
def constantsLegal (k : Constants) : Bool :=
  decide (k.cmdIndex = 2) && decide (2 ≤ k.minLenV1) && decide (k.minLenV1 ≤ 5) && decide (k.txMax ≤ 15) &&
    decide ((tableRows k).map (·.code)).Nodup && (templates k).all (templateFits k)

/-- `LEN_BEFORE_SYNC` (00_scope R5). -/
def lenBeforeSync (p : Params) : Bool :=
  match p.variant with
  | .v1Early => true
  | .v2Crc => false

/-- `MIN_LEN` (00_scope R5). -/
def minLen (p : Params) : Nat :=
  match p.variant with
  | .v1Early => p.consts.minLenV1
  | .v2Crc => p.minLenV2

/-- `VERIFY_RX_CRC` (00_scope R5, 41_frame_validator R86). -/
def verifyRxCrc (p : Params) : Bool :=
  match p.variant with
  | .v1Early => p.v1VerifyRxCrc
  | .v2Crc => true

/-- `SEAL_FALLBACK` (00_scope R5, 42_command_mux R103). -/
def sealFallback (p : Params) : Bool :=
  match p.variant with
  | .v1Early => true
  | .v2Crc => false

/-- The variant the strap pin selects: 0 is `V2_CRC`, 1 is `V1_EARLY` (43_port_operations R115). -/
def variantOfPin (pin : Bool) : Variant :=
  if pin then .v1Early else .v2Crc

/-- Whether `RXBUF` has room for one more byte when it holds `n` (43_port_operations R116). -/
def rxHasRoom (p : Params) (n : Nat) : Bool :=
  match p.rxMax with
  | none => true
  | some m => decide (n < m)

/-- Whether a buffer of `n` bytes fits in `RXBUF`. -/
def rxFits (p : Params) (n : Nat) : Bool :=
  match p.rxMax with
  | none => true
  | some m => decide (n ≤ m)

/-- A value that fits the width of `RXLEN` and `IDX`, ceil(log2(`RX_MAX` + 1)) bits (10_state section 4, R16). The bound is
the width and not `RX_MAX` itself: `IDX` also runs over a template, which may be longer than `RX_MAX`
(DESIGN CHOICE, entry 27). -/
def fitsIndexWidth (p : Params) (n : Nat) : Bool :=
  match p.rxMax with
  | none => true
  | some m => decide (n < 2 ^ (Nat.log2 m + 1))

/-- A free index cut to that width, so that an unspecified `IDX` keeps its bound (entry 3). -/
def cutToIndexWidth (p : Params) (n : Nat) : Nat :=
  match p.rxMax with
  | none => n
  | some m => n % 2 ^ (Nat.log2 m + 1)

/-- Legal values: legal constants, `MIN_LEN_V2` from 2 to 5, `RX_MAX` at least 5 or unbounded (00_scope section 4), and every
template's length within the width of `IDX`, which indexes the templates too (10_state R16; entry 27). The given templates
have at most 7 bytes and fit under every `RX_MAX`. -/
def paramsLegal (p : Params) : Bool :=
  constantsLegal p.consts && decide (2 ≤ p.minLenV2) && decide (p.minLenV2 ≤ 5) &&
    (match p.rxMax with
     | none => true
     | some m => decide (5 ≤ m)) &&
    (templates p.consts).all (fun t => fitsIndexWidth p t.length)

/-- The parameters of `State.reset` (entry 1): the given constants, the mainline variant, the defaults of 00_scope
section 4, and the unbounded inbound buffer. -/
def defaultParams : Params where
  consts := constants
  variant := .v2Crc
  minLenV2 := 5
  v1VerifyRxCrc := true
  rxMax := none

end Sys2Proof.Machine
end

