-- ==== Sys2Proof/Machine/Crc.lean ====
section
/-! DEFINITION. The CRC engine as functions of the accumulator value (40_crc_engine R66 to R71). The micro-operations
on the register `ACC` in Machine/Ops.lean are these functions applied to it. -/

namespace Sys2Proof.Machine

/-- `CRC_XORIN(b)` on an accumulator value: `ACC ^ zext_16(b)` (R67). -/
def accXorin (a : Word) (b : Byte) : Word :=
  a ^^^ b.setWidth 16

/-- `CRC_SHIFT`: bit 0 is tested before the logical shift; the constant is XORed into the shifted value (R68). -/
def accShift (k : Constants) (a : Word) : Word :=
  if a.getLsbD 0 then (a >>> 1) ^^^ k.polyReflected else a >>> 1

/-- `n` applications of `CRC_SHIFT`. -/
def accShifts (k : Constants) : Nat → Word → Word
  | 0, a => a
  | n + 1, a => accShifts k n (accShift k a)

/-- `CRC_BYTE(b)`: one XOR, then exactly eight shifts (R69). -/
def accByte (k : Constants) (a : Word) (b : Byte) : Word :=
  accShifts k 8 (accXorin a b)

/-- The accumulator after the bytes of a sequence, first byte first (R71, R76). -/
def accBytes (k : Constants) (a : Word) : List Byte → Word
  | [] => a
  | b :: bs => accBytes k (accByte k a b) bs

/-- `CRC_FINAL`: `ACC ^ CRC_XOROUT` (R70). -/
def accFinal (k : Constants) (a : Word) : Word :=
  a ^^^ k.crcXorout

/-- `compute_crc` (R65, R71). -/
def computeCrc (k : Constants) (s : List Byte) : Word :=
  accFinal k (accBytes k k.crcInit s)

/-- The table `T` of R75: eight shifts of a zero-extended byte. -/
def crcTable (k : Constants) (x : Byte) : Word :=
  accShifts k 8 (x.setWidth 16)

end Sys2Proof.Machine
end

