-- ==== Sys2Proof/Machine/Operands.lean ====
section
/-! DEFINITION. Operand assembly (30_encoding E2) and the byte order of the CRC field: the two operands of the block are
`CLAIMED` and `CODE`. Also sealing as a function on byte sequences. -/

namespace Sys2Proof.Machine

/-- `lo(w) = w[7:0]` (00_scope section 5). -/
def lo (w : Word) : Byte :=
  w.setWidth 8

/-- `hi(w) = w[15:8]` (00_scope section 5). -/
def hi (w : Word) : Byte :=
  (w >>> 8).setWidth 8

/-- `low | (high << 8)` (20_memory R33). -/
def joinWord (low high : Byte) : Word :=
  low.setWidth 16 ||| (high.setWidth 16 <<< 8)

/-- The CRC as two bytes, low byte first (20_memory R32). -/
def crcField (c : Word) : List Byte :=
  [lo c, hi c]

/-- `SEAL(p)`: the sequence, then its CRC low byte first (30_encoding R51, R57). -/
def sealBytes (k : Constants) (p : List Byte) : List Byte :=
  p ++ crcField (computeCrc k p)

/-- The bytes the CRC covers: all but the last two, `raw[0 .. n-2]` (30_encoding R47, 41_frame_validator R85). -/
def coveredBytes (raw : List Byte) : List Byte :=
  raw.take (raw.length - crcLen)

/-- The claimed CRC of a buffer, `raw[n-2] | (raw[n-1] << 8)`; none where there are no two bytes
(41_frame_validator R84). -/
def claimedOf (raw : List Byte) : Option Word :=
  if raw.length < crcLen then none
  else
    match raw[raw.length - 2]?, raw[raw.length - 1]? with
    | some low, some high => some (joinWord low high)
    | _, _ => none

/-- The command code of a buffer, the byte at index 2 (30_encoding R46, 42_command_mux R95). -/
def codeOf (k : Constants) (raw : List Byte) : Option Byte :=
  raw[k.cmdIndex]?

/-- `META`, the byte at index 1 (30_encoding R47). -/
def metaOf (raw : List Byte) : Option Byte :=
  raw[1]?

/-- `PAYLOAD`, the bytes at indices 3 to n-3 inclusive, possibly none (30_encoding R47). -/
def payloadOf (k : Constants) (raw : List Byte) : List Byte :=
  (coveredBytes raw).drop (k.cmdIndex + 1)

end Sys2Proof.Machine
end

