-- ==== Sys2Proof/Syntax.lean ====
section
/-! DEFINITION. The instructions (command codes), the request frame around one, the causes of rejection, the
diagnostic events and the operations of the host. -/

namespace Sys2Proof

/-- The commands of spec/opcode_table.json, one constructor per mnemonic (30_encoding R50, R53, R57).
None has an operand that it uses; the eight `UNKNOWN` rows of the table are the eight match/mask patterns of the ONE
command `UNKNOWN` (42_command_mux R101), whose code is kept because the diagnostic reports it (entry 13). -/
inductive Instr where
  /-- `QUERY_ID`, code `0x01` (R96). -/
  | queryId
  /-- `ABORT_TX`, code `0x03` (R97). -/
  | abortTx
  /-- `APPLY_CFG`, code `0x06` (R98). -/
  | applyCfg
  /-- `SEND_DATA`, code `0x00` (R99). -/
  | sendData
  /-- `QUERY_BURST`, code `0x04` (R100). -/
  | queryBurst
  /-- `UNKNOWN`, any of the other 251 codes (R101). -/
  | unknown (code : Byte)
deriving DecidableEq, Repr

/-- An inbound command frame without its `SYNC` and its CRC: format REQ, `REQ(meta, code, payload...)`
(30_encoding R47, R57). `META` and `PAYLOAD` are covered by the CRC and read by no command (R48, R49). -/
structure Request where
  instr : Instr
  metaByte : Byte
  payload : List Byte
deriving DecidableEq, Repr

/-- The causes of rejection (60_exceptions R130 to R134). -/
inductive Cause where
  /-- `E_SHORT` (R131). -/
  | short
  /-- `E_SYNC` (R132). -/
  | sync
  /-- `E_CRC`, with the values `COMPUTED` and `CLAIMED` (R133). -/
  | crc (computed claimed : Word)
  /-- `E_OVERFLOW` (R134). -/
  | overflow
deriving DecidableEq, Repr

/-- A diagnostic event (43_port_operations R121). A field that is not meaningful for a kind is not here: it has no
specified value. -/
inductive Diag where
  /-- `DG_OK`: a recognized command was answered. -/
  | ok (code : Byte)
  /-- `DG_UNKNOWN`: an unknown command was answered with the fallback. -/
  | unknown (code : Byte)
  /-- `DG_SHORT`, `DG_SYNC`, `DG_CRC`, `DG_OVERFLOW`: a rejection with this cause. -/
  | rejected (cause : Cause)
deriving DecidableEq, Repr

/-- What the host does (43_port_operations R116, R117, R119, R122; 70_reset R158). -/
inductive HostOp where
  /-- `RX_BYTE(b)` (R116). -/
  | rxByte (b : Byte)
  /-- `RX_END` (R117). -/
  | rxEnd
  /-- `TX_POP` (R119). -/
  | txPop
  /-- `RESET` (R122, R150). -/
  | reset
  /-- The strap pin `variant` changes: `false` is 0, `V2_CRC`, and `true` is 1, `V1_EARLY` (R115, R158; entry 8). -/
  | strap (pin : Bool)
  /-- The host does nothing for one step of the block (the model's own; entry 5). -/
  | wait
deriving DecidableEq, Repr

end Sys2Proof
end

