-- ==== Sys2Proof/Machine/Flags.lean ====
section
/-! DEFINITION. The conditions the block tests. It has no flag register (10_state R17): a comparison is used at once to
choose the next stage and is not stored. The one sticky bit, `RXOVF`, is a field of State. -/

namespace Sys2Proof.Machine

/-- The length check `n < MIN_LEN` (41_frame_validator R82). -/
def tooShort (p : Params) (n : Nat) : Bool :=
  decide (n < minLen p)

/-- The sync check `raw[0] != SYNC`, all eight bits (41_frame_validator R83). -/
def syncBad (k : Constants) (b : Byte) : Bool :=
  b != k.sync

/-- The CRC comparison, all sixteen bits (41_frame_validator R85). -/
def crcBad (computed claimed : Word) : Bool :=
  computed != claimed

/-- The guard of dispatch, `n <= CMD_INDEX` (42_command_mux R95). -/
def noCommandByte (k : Constants) (n : Nat) : Bool :=
  decide (n ≤ k.cmdIndex)

/-- Stage 1 on a buffer of length `n` whose first byte, where there is one, is `first` (41_frame_validator R81 to R83):
the cause of the first check that fails, in the order of the variant (60_exceptions R136). The first byte is looked at
only where the length has been found to be at least 1. -/
def guardCause (p : Params) (n : Nat) (first : Option Byte) : Option Cause :=
  if lenBeforeSync p then
    if tooShort p n then some .short
    else
      match first with
      | none => some .short
      | some b => if syncBad p.consts b then some .sync else none
  else
    match first with
    | none => some .short
    | some b =>
      if syncBad p.consts b then some .sync
      else if tooShort p n then some .short
      else none

end Sys2Proof.Machine
end

