-- ==== Sys2Proof/WellFormed.lean ====
section
/-! DEFINITION. Which terms of Syntax stand for something on this hardware. -/

namespace Sys2Proof

/-- An `UNKNOWN` command carries a code outside the recognized set (30_encoding R53). -/
def Instr.wf (k : Constants) (i : Instr) : Bool :=
  match i with
  | .unknown c => !(Machine.romRead k c).1
  | .queryId => true
  | .abortTx => true
  | .applyCfg => true
  | .sendData => true
  | .queryBurst => true

/-- The total length of a request: `SYNC`, `META`, `CODE`, the payload, two CRC bytes (30_encoding R47). -/
def Request.length (r : Request) : Nat :=
  r.payload.length + 5

/-- A request is well formed when its command is. -/
def Request.wf (k : Constants) (r : Request) : Bool :=
  r.instr.wf k

/-- A request fits the inbound buffer (10_state R13). -/
def Request.fits (p : Params) (r : Request) : Bool :=
  Machine.rxFits p r.length

/-- Legal parameters (00_scope section 4). -/
def Params.wf (p : Params) : Bool :=
  Machine.paramsLegal p

end Sys2Proof
end

