-- ==== Sys2Proof/Decode.lean ====
section
/-! DEFINITION. From bytes to a command and back. The key of the opcode table is one byte, `CODE`, at index 2 of a
validated frame (30_encoding R53); the frame around it is format REQ (R47). Decoding is total: a code always selects one
command, and a buffer that is no frame is rejected by its cause (R55). After the decoder, the encoder. -/

namespace Sys2Proof

/-- The six mnemonics. -/
inductive Mnemonic where
  | queryId
  | abortTx
  | applyCfg
  | sendData
  | queryBurst
  | unknown
deriving DecidableEq, Repr

/-- One row of spec/opcode_table.json: it matches `c` when `c & mask = pattern`. -/
structure OpRow where
  mnemonic : Mnemonic
  pattern : Byte
  mask : Byte
deriving DecidableEq, Repr

/-- Whether a row of the table matches a code. -/
def opRowMatches (r : OpRow) (c : Byte) : Bool :=
  c &&& r.mask == r.pattern

/-- The thirteen rows of spec/opcode_table.json, in its order (30_encoding R53): the map that the given constants make. -/
def opTable : List OpRow :=
  [ { mnemonic := .queryId, pattern := 0x01, mask := 0xFF },
    { mnemonic := .abortTx, pattern := 0x03, mask := 0xFF },
    { mnemonic := .applyCfg, pattern := 0x06, mask := 0xFF },
    { mnemonic := .sendData, pattern := 0x00, mask := 0xFF },
    { mnemonic := .queryBurst, pattern := 0x04, mask := 0xFF },
    { mnemonic := .unknown, pattern := 0x02, mask := 0xFF },
    { mnemonic := .unknown, pattern := 0x05, mask := 0xFF },
    { mnemonic := .unknown, pattern := 0x07, mask := 0xFF },
    { mnemonic := .unknown, pattern := 0x08, mask := 0xF8 },
    { mnemonic := .unknown, pattern := 0x10, mask := 0xF0 },
    { mnemonic := .unknown, pattern := 0x20, mask := 0xE0 },
    { mnemonic := .unknown, pattern := 0x40, mask := 0xC0 },
    { mnemonic := .unknown, pattern := 0x80, mask := 0x80 } ]

/-- The mnemonic of a command. -/
def mnemonicOf (i : Instr) : Mnemonic :=
  match i with
  | .queryId => .queryId
  | .abortTx => .abortTx
  | .applyCfg => .applyCfg
  | .sendData => .sendData
  | .queryBurst => .queryBurst
  | .unknown _ => .unknown

/-- The command a code selects: the row of the Response Table that has the code, in the source's order, or `UNKNOWN`
(30_encoding R50, R53; 10_state R19). With the given constants this is what the opcode table says. -/
def decodeCode (k : Constants) (c : Byte) : Instr :=
  if c = k.respTable.queryId.code then .queryId
  else if c = k.respTable.abortTx.code then .abortTx
  else if c = k.respTable.applyCfg.code then .applyCfg
  else if c = k.respTable.sendData.code then .sendData
  else if c = k.respTable.queryBurst.code then .queryBurst
  else .unknown c

/-- Validation of a buffer, stages 1 to 3 (41_frame_validator R81 to R86): the cause of the first check that fails. -/
def validateFrame (p : Params) (raw : List Byte) : Option Cause :=
  match Machine.guardCause p raw.length raw[0]? with
  | some c => some c
  | none =>
    match Machine.claimedOf raw with
    | none => some .short
    | some claimed =>
      if Machine.verifyRxCrc p then
        if Machine.crcBad (Machine.computeCrc p.consts (Machine.coveredBytes raw)) claimed then
          some (.crc (Machine.computeCrc p.consts (Machine.coveredBytes raw)) claimed)
        else none
      else none

/-- The request a buffer is, or the cause of its rejection (30_encoding R47, R55; 42_command_mux R95). -/
def decodeFrame (p : Params) (raw : List Byte) : Except Cause Request :=
  match validateFrame p raw with
  | some c => .error c
  | none =>
    match Machine.metaOf raw, Machine.codeOf p.consts raw with
    | some m, some c =>
      .ok { instr := decodeCode p.consts c, metaByte := m, payload := Machine.payloadOf p.consts raw }
    | _, _ => .error .short

/-- The code byte of a command, the word of the opcode table (30_encoding R50). -/
def encodeCode (k : Constants) (i : Instr) : Byte :=
  match i with
  | .queryId => k.respTable.queryId.code
  | .abortTx => k.respTable.abortTx.code
  | .applyCfg => k.respTable.applyCfg.code
  | .sendData => k.respTable.sendData.code
  | .queryBurst => k.respTable.queryBurst.code
  | .unknown c => c

/-- The frame of a request, `REQ(meta, code, payload...)`: sealed with its CRC, low byte first (30_encoding R47, R57). -/
def encodeRequest (k : Constants) (r : Request) : List Byte :=
  Machine.sealBytes k ([k.sync, r.metaByte, encodeCode k r.instr] ++ r.payload)

/-- The shortest frame that carries a code: `REQ(00, code)` (30_encoding R57; entry 12). -/
def frameOfCode (k : Constants) (c : Byte) : List Byte :=
  Machine.sealBytes k [k.sync, 0x00, c]

/-- The instruction the decoder reads from a row of the opcode table: the row's 8 bits are `CODE`, everything else of the
frame is zero but for the sync byte and the CRC, which a frame must have (entry 12). -/
def decodeTableWord (nbits w : Nat) : Option Instr :=
  if nbits = 8 ∧ w < 256 then
    match decodeFrame Machine.defaultParams (frameOfCode Machine.constants (BitVec.ofNat 8 w)) with
    | .ok r => some r.instr
    | .error _ => none
  else none

end Sys2Proof
end

