-- ==== Sys2Proof/Machine/Memory.lean ====
section
/-! DEFINITION. A byte space (20_memory R30): the inbound and the outbound buffer are each one. A list of (index, byte)
cells in one canonical form: indices strictly rising. An index with no cell has no value (entry 4). -/

namespace Sys2Proof.Machine

/-- The cells of one byte space. -/
abbrev Memory := List Host.Cell

/-- The byte at an index, or nothing where nothing has been written. -/
def Memory.get? : Memory → Nat → Option Byte
  | [], _ => none
  | (a, b) :: m, i => if a = i then some b else Memory.get? m i

/-- Writes one byte at an index, keeping the indices strictly rising. -/
def Memory.set : Memory → Nat → Byte → Memory
  | [], i, v => [(i, v)]
  | (a, b) :: m, i, v =>
    if i < a then (i, v) :: (a, b) :: m
    else if i = a then (i, v) :: m
    else (a, b) :: Memory.set m i v

/-- All indices of the cells are above a bound and strictly rising. -/
def Memory.risingFrom : Nat → Memory → Bool
  | _, [] => true
  | n, (a, _) :: m => decide (n ≤ a) && Memory.risingFrom (a + 1) m

/-- The canonical form: indices strictly rising. -/
def Memory.wf (m : Memory) : Bool :=
  Memory.risingFrom 0 m

/-- The space that holds a sequence from index `at` upward and nothing else. -/
def Memory.ofBytesFrom : Nat → List Byte → Memory
  | _, [] => []
  | i, b :: bs => (i, b) :: Memory.ofBytesFrom (i + 1) bs

end Sys2Proof.Machine
end

