-- ==== Sys2Proof/Machine/State.lean ====
section
/-! DEFINITION. The state of the block, the reasons a step stops, and the state after reset. -/

namespace Sys2Proof.Machine

/-- Who owns the buffers (10_state R15). -/
inductive Phase where
  /-- `RECV`: the host may push bytes and end the buffer. -/
  | recv
  /-- `PROC`: a transaction is running. -/
  | proc
  /-- `SEND`: a response waits to be popped. -/
  | send
deriving DecidableEq, Repr

/-- The micro-sequencer (10_state R16). Its numeric encoding is given nowhere (93 U17). -/
inductive Stage where
  | idle
  | guard
  | extract
  | verify
  | dispatch
  | sealing
deriving DecidableEq, Repr

/-- Why a step may stop. None of these happens in a run from a state that meets `Safety.Inv` (20_memory R37, R42). -/
inductive Fault where
  /-- Raised by `rxRead`: an index at or beyond `RXLEN`, or a phase other than PROC (20_memory R37, R42). Safe. -/
  | rxReadIllegal
  /-- Raised by `rxRead`: a byte of `RXBUF` that nothing has written (93 U8; entry 4). Safe. -/
  | rxUnwritten
  /-- Raised by `rxWrite`: an index other than `RXLEN`, a full buffer, or a phase other than RECV (20_memory R42). Safe. -/
  | rxWriteIllegal
  /-- Raised by `txRead`: an index at or beyond `TXLEN`, or a phase other than SEND (20_memory R42). Safe. -/
  | txReadIllegal
  /-- Raised by `txRead`: a byte of `TXBUF` that nothing has written (93 U8; entry 4). Safe. -/
  | txUnwritten
  /-- Raised by `txWrite`: an index at or beyond `TX_MAX`, or a phase other than PROC (20_memory R42). Safe. -/
  | txWriteIllegal
  /-- Raised by `runStage`: PHASE is PROC and STAGE is ST_IDLE, for which no rule gives a step (43_port_operations R118;
  entry 25). Safe. -/
  | noStage
deriving DecidableEq, Repr

/-- Why a step may have no meaning. -/
inductive Refusal where
  /-- Raised by an arm of `exec` whose instruction has no meaning yet. Safe. No arm does. -/
  | notModelled (mnemonic : String)
  /-- Raised by `opStrap`: the strap changes while PHASE is PROC, which 70_reset R158 forbids and 93 U12 says to refuse
  (entry 8). Safe. -/
  | strapChangedInProc
deriving DecidableEq, Repr

/-- Everything the spec gives the block, its configuration, and the host's side of the ports as plain data. -/
structure State where
  /-- The hardwired constants and the parameters of the run; only the strap operation changes `variant` (10_state R18;
  entries 1 and 8). -/
  cfg : Params
  /-- `ACC` (10_state R11). -/
  acc : Word
  /-- `CLAIMED` (10_state R12). -/
  claimed : Word
  /-- `COMPUTED` (10_state R12). -/
  computed : Word
  /-- `CMD` (10_state R12). -/
  cmd : Byte
  /-- `RXBUF` (10_state R13). -/
  rxbuf : Memory
  /-- `RXLEN` (10_state R13). -/
  rxlen : Nat
  /-- `RXOVF` (10_state R13, R17). -/
  rxovf : Bool
  /-- `TXBUF` (10_state R14). -/
  txbuf : Memory
  /-- `TXLEN`, 0 to 9 (10_state R14). -/
  txlen : Nat
  /-- `TXPTR`, 0 to 9 (10_state R14). -/
  txptr : Nat
  /-- `PHASE` (10_state R15). -/
  phase : Phase
  /-- `STAGE` (10_state R16). -/
  stage : Stage
  /-- `IDX` (10_state R16). -/
  idx : Nat
  /-- The host's coming operations, oldest first (the model's own; entry 5). -/
  inputs : List HostOp
  /-- What the host has popped: byte and last mark, oldest first (environment; entry 6). -/
  sent : List (Byte × Bool)
  /-- The diagnostic events emitted, oldest first (environment, 43_port_operations R121; entry 6). -/
  diags : List Diag
  /-- How many free values have been drawn (the model's own; entry 3). -/
  fresh : Nat
deriving DecidableEq, Repr

/-- The block right after reset: the idle state (10_state R22, 70_reset R150). The registers the spec leaves unspecified
hold 0 here (entry 2); the buffers list nothing (entry 4); the host has asked for nothing (entry 5). -/
def State.reset : State where
  cfg := defaultParams
  acc := 0
  claimed := 0
  computed := 0
  cmd := 0
  rxbuf := []
  rxlen := 0
  rxovf := false
  txbuf := []
  txlen := 0
  txptr := 0
  phase := .recv
  stage := .idle
  idx := 0
  inputs := []
  sent := []
  diags := []
  fresh := 0

end Sys2Proof.Machine
end

