-- ==== Sys2Proof/Machine/Ops.lean ====
section
/-! DEFINITION. The named operations over registers and buffers: register writes, the four memory primitives of
20_memory R42, the CRC micro-operations on `ACC`, and the shared ends of a transaction: rejection (the block's one
exceptional event, 60_exceptions R137) and answer. There is no return operation (R144). -/

namespace Sys2Proof.Machine

/-! ### Register writes -/

/-- `ACC <- v`. -/
def setAcc (v : Word) (s : State) : State := { s with acc := v }

/-- `IDX <- v`. -/
def setIdx (v : Nat) (s : State) : State := { s with idx := v }

/-- `CLAIMED <- v`. -/
def setClaimed (v : Word) (s : State) : State := { s with claimed := v }

/-- `COMPUTED <- v`. -/
def setComputed (v : Word) (s : State) : State := { s with computed := v }

/-- `CMD <- v`. -/
def setCmd (v : Byte) (s : State) : State := { s with cmd := v }

/-- `STAGE <- v`. -/
def setStage (v : Stage) (s : State) : State := { s with stage := v }

/-- Replaces the cells of `RXBUF`. -/
def setRxbuf (m : Memory) (s : State) : State := { s with rxbuf := m }

/-- Replaces the cells of `TXBUF`. -/
def setTxbuf (m : Memory) (s : State) : State := { s with txbuf := m }

/-- What the host is still to do. -/
def setInputs (l : List HostOp) (s : State) : State := { s with inputs := l }

/-! ### The memory primitives (20_memory R42) -/

/-- `MemRead(RX:i, 1)`: legal only for `i < RXLEN` and PHASE = PROC (R37, R42). -/
def rxRead (s : State) (i : Nat) : Except Fault Byte :=
  if s.phase = .proc ∧ i < s.rxlen then
    match s.rxbuf.get? i with
    | some b => .ok b
    | none => .error .rxUnwritten
  else .error .rxReadIllegal

/-- `MemWrite(RX:i, 1, v)`: only at `i` = `RXLEN` < `RX_MAX` and PHASE = RECV (R42). -/
def rxWrite (i : Nat) (v : Byte) (s : State) : Except Fault State :=
  if s.phase = .recv ∧ i = s.rxlen ∧ rxHasRoom s.cfg i = true then
    .ok (setRxbuf (s.rxbuf.set i v) s)
  else .error .rxWriteIllegal

/-- `MemWrite(TX:i, 1, v)`: only at `i < TX_MAX` and PHASE = PROC (R38, R42). -/
def txWrite (i : Nat) (v : Byte) (s : State) : Except Fault State :=
  if s.phase = .proc ∧ i < s.cfg.consts.txMax then .ok (setTxbuf (s.txbuf.set i v) s)
  else .error .txWriteIllegal

/-- `MemRead(TX:i, 1)`: only at `i < TXLEN` and PHASE = SEND (R42). -/
def txRead (s : State) (i : Nat) : Except Fault Byte :=
  if s.phase = .send ∧ i < s.txlen then
    match s.txbuf.get? i with
    | some b => .ok b
    | none => .error .txUnwritten
  else .error .txReadIllegal

/-- Writes a sequence to `TXBUF` from index `i` upward, one byte at a time (42_command_mux R102). -/
def txWriteAll : Nat → List Byte → State → Except Fault State
  | _, [], s => .ok s
  | i, b :: bs, s =>
    match txWrite i b s with
    | .error f => .error f
    | .ok s' => txWriteAll (i + 1) bs s'

/-! ### The CRC micro-operations (40_crc_engine R66 to R70) -/

/-- `CRC_INIT` (R66). -/
def crcInit (s : State) : State := setAcc s.cfg.consts.crcInit s

/-- `CRC_XORIN(b)` (R67). -/
def crcXorin (b : Byte) (s : State) : State := setAcc (accXorin s.acc b) s

/-- `CRC_SHIFT` (R68). -/
def crcShift (s : State) : State := setAcc (accShift s.cfg.consts s.acc) s

/-- `n` applications of `CRC_SHIFT`. -/
def crcShifts : Nat → State → State
  | 0, s => s
  | n + 1, s => crcShifts n (crcShift s)

/-- `CRC_BYTE(b)` (R69). -/
def crcByte (b : Byte) (s : State) : State := crcShifts 8 (crcXorin b s)

/-- `CRC_FINAL`: a result; `ACC` is not written (R70). -/
def crcFinal (s : State) : Word := accFinal s.cfg.consts s.acc

/-- The CRC loop of ST_VERIFY: `k` more rounds of `CRC_BYTE(RXBUF[IDX])`, each moving `IDX` on (43_port_operations R118;
entry 9). -/
def verifyLoop : Nat → State → Except Fault State
  | 0, s => .ok s
  | k + 1, s =>
    match rxRead s s.idx with
    | .error f => .error f
    | .ok b => verifyLoop k (setIdx (s.idx + 1) (crcByte b s))

/-- The CRC loop of ST_SEAL over the bytes of the template, each round moving `IDX` on (10_state R16,
42_command_mux R102; entry 9). Over the seven-byte template `IDX` reaches 7 also where `RX_MAX` is 5 or 6 (DESIGN
CHOICE, entry 27). -/
def sealLoop : List Byte → State → State
  | [], s => s
  | b :: bs, s => sealLoop bs (setIdx (s.idx + 1) (crcByte b s))

/-! ### The two ends of a transaction -/

/-- `raise E_x(info)`: one diagnostic, no response, the inbound buffer discarded, back to the idle state
(60_exceptions R137, 43_port_operations R118). -/
def reject (c : Cause) (s : State) : State :=
  { s with
    diags := s.diags ++ [.rejected c]
    txlen := 0
    txptr := 0
    rxlen := 0
    rxovf := false
    stage := .idle
    phase := .recv }

/-- The end of ST_SEAL: a response of `n` bytes waits, one diagnostic, the inbound buffer discarded
(43_port_operations R118). -/
def finishAnswer (n : Nat) (d : Diag) (s : State) : State :=
  { s with
    txlen := n
    txptr := 0
    diags := s.diags ++ [d]
    rxlen := 0
    rxovf := false
    stage := .idle
    phase := .send }

/-- The effect of `RESET` (70_reset R150): the idle state; the latches hold free values and the buffers no value
(entries 3 and 4); no diagnostic. The spec relates none of these values to another or to a pin, and neither does the model:
each is a draw of its own, and the pins have constants of their own (entries 3 and 20). -/
def resetBlock (s : State) : State :=
  { s with
    phase := .recv
    stage := .idle
    rxlen := 0
    rxovf := false
    txlen := 0
    txptr := 0
    acc := Config.freeWord s.fresh
    claimed := Config.freeWord (s.fresh + 1)
    computed := Config.freeWord (s.fresh + 2)
    cmd := Config.freeByte s.fresh
    idx := cutToIndexWidth s.cfg (Config.freeIndex s.fresh)
    rxbuf := []
    txbuf := []
    fresh := s.fresh + 3 }

end Sys2Proof.Machine
end

