-- ==== Sys2Proof/Machine/Mux.lean ====
section
/-! DEFINITION. Unit MUX: ST_DISPATCH (42_command_mux R95) and the meanings of the commands, each of which is ST_SEAL for
its code (R96 to R103, 43_port_operations R118). -/

namespace Sys2Proof.Machine

/-- ST_DISPATCH: the guard, then `CMD <- RXBUF[2]` (R95). The pair (known, template) read from the ROM here is no register
of the spec: ST_SEAL takes it again from the ROM by `CMD` (entry 10). -/
def stageDispatch (s : State) : Host.Outcome State Fault Refusal :=
  if noCommandByte s.cfg.consts s.rxlen then .next (reject .short s)
  else
    match rxRead s s.cfg.consts.cmdIndex with
    | .error f => .fault f
    | .ok c => .next (setStage .sealing (setCmd c s))

/-- Sealing (R102): the CRC of the template through `ACC`, appended at indices `len(template)` and `len(template) + 1`. -/
def appendCrc (template : List Byte) (s : State) : Except Fault State :=
  txWriteAll template.length
    (crcField (crcFinal (sealLoop template (setIdx 0 (crcInit s)))))
    (sealLoop template (setIdx 0 (crcInit s)))

/-- ST_SEAL: copies the template to `TXBUF`, seals it where `sealed` says so, and ends the transaction with the event `d`
(R102, R103, 43_port_operations R118). -/
def sendResponse (template : List Byte) (sealed : Bool) (d : Diag) (s : State) : Host.Outcome State Fault Refusal :=
  match txWriteAll 0 template s with
  | .error f => .fault f
  | .ok s1 =>
    if sealed then
      match appendCrc template s1 with
      | .error f => .fault f
      | .ok s2 => .next (finishAnswer (template.length + crcLen) d s2)
    else .next (finishAnswer template.length d s1)

/-- ST_SEAL for a code, from its entry in the ROM: the template, sealed when the code is known or the variant seals the
fallback, reported with the code (R95, R102, R103, 43_port_operations R118). -/
def answerFromRom (code : Byte) (s : State) : Host.Outcome State Fault Refusal :=
  sendResponse (romRead s.cfg.consts code).2 ((romRead s.cfg.consts code).1 || sealFallback s.cfg)
    (if (romRead s.cfg.consts code).1 then .ok code else .unknown code) s

/-- `QUERY_ID` (R96). -/
def execQueryId (s : State) : Host.Outcome State Fault Refusal :=
  answerFromRom s.cfg.consts.respTable.queryId.code s

/-- `ABORT_TX` (R97): nothing is aborted; the block only answers. -/
def execAbortTx (s : State) : Host.Outcome State Fault Refusal :=
  answerFromRom s.cfg.consts.respTable.abortTx.code s

/-- `APPLY_CFG` (R98): no configuration is stored or changed. -/
def execApplyCfg (s : State) : Host.Outcome State Fault Refusal :=
  answerFromRom s.cfg.consts.respTable.applyCfg.code s

/-- `SEND_DATA` (R99): the payload is ignored. -/
def execSendData (s : State) : Host.Outcome State Fault Refusal :=
  answerFromRom s.cfg.consts.respTable.sendData.code s

/-- `QUERY_BURST` (R100): the state byte is a constant of the template. -/
def execQueryBurst (s : State) : Host.Outcome State Fault Refusal :=
  answerFromRom s.cfg.consts.respTable.queryBurst.code s

/-- `UNKNOWN` (R101, R103): the fallback, sealed only in `V1_EARLY`, reported with `DG_UNKNOWN` and the code. For a code
outside the ROM's recognized set this is ST_SEAL from its ROM entry (`Laws.execUnknown_eq_answerFromRom`). -/
def execUnknown (code : Byte) (s : State) : Host.Outcome State Fault Refusal :=
  sendResponse s.cfg.consts.fallback (sealFallback s.cfg) (.unknown code) s

end Sys2Proof.Machine
end

