-- ==== Sys2Proof/Machine/Dispatch.lean ====
section
/-! DEFINITION. The meaning of each command, one arm per constructor of Instr. -/

namespace Sys2Proof.Machine

/-- Runs one command: ST_SEAL of a transaction whose latched code is that command (42_command_mux R96 to R101). -/
def exec (i : Instr) (s : State) : Host.Outcome State Fault Refusal :=
  match i with
  | .queryId => Sys2Proof.Machine.execQueryId s
  | .abortTx => Sys2Proof.Machine.execAbortTx s
  | .applyCfg => Sys2Proof.Machine.execApplyCfg s
  | .sendData => Sys2Proof.Machine.execSendData s
  | .queryBurst => Sys2Proof.Machine.execQueryBurst s
  | .unknown code => Sys2Proof.Machine.execUnknown code s

end Sys2Proof.Machine
end

