-- ==== Sys2Proof/Machine/PortOps.lean ====
section
/-! DEFINITION. The host's operations at the ports (43_port_operations R116 to R122) and when each is enabled. -/

namespace Sys2Proof.Machine

/-- Whether an operation has a step in a phase (R116, R117, R119, R120, R122). A strap change is taken at once in every
phase, and in PROC the block has no meaning for it (70_reset R158; entry 8). -/
def opEnabled (op : HostOp) (ph : Phase) : Bool :=
  match op with
  | .rxByte _ => ph == .recv
  | .rxEnd => ph == .recv
  | .txPop => ph == .send
  | .reset => true
  | .strap _ => true
  | .wait => true

/-- `RX_BYTE(b)` (R116): stores the byte, or discards it and sets the overflow mark. -/
def opRxByte (b : Byte) (s : State) : Host.Outcome State Fault Refusal :=
  if rxHasRoom s.cfg s.rxlen then
    match rxWrite s.rxlen b s with
    | .error f => .fault f
    | .ok s1 => .next { s1 with rxlen := s1.rxlen + 1 }
  else .next { s with rxovf := true }

/-- `RX_END` (R117): the transaction begins. -/
def opRxEnd (s : State) : Host.Outcome State Fault Refusal :=
  .next { s with phase := .proc, stage := .guard }

/-- `TX_POP` (R119): the host receives the byte at `TXPTR` with its last mark; the last one ends in the idle state. -/
def opTxPop (s : State) : Host.Outcome State Fault Refusal :=
  match txRead s s.txptr with
  | .error f => .fault f
  | .ok b =>
    if s.txptr = s.txlen - 1 then
      .next { s with sent := s.sent ++ [(b, true)], txlen := 0, txptr := 0, phase := .recv }
    else .next { s with sent := s.sent ++ [(b, false)], txptr := s.txptr + 1 }

/-- `RESET` (R122, 70_reset R150, R151). -/
def opReset (s : State) : Host.Outcome State Fault Refusal :=
  .next (resetBlock s)

/-- The strap pin changes: the next transaction uses the new variant; refused while a transaction runs (70_reset R158;
entry 8). -/
def opStrap (pin : Bool) (s : State) : Host.Outcome State Fault Refusal :=
  if s.phase = .proc then .refused .strapChangedInProc
  else .next { s with cfg := { s.cfg with variant := variantOfPin pin } }

end Sys2Proof.Machine
end

