-- ==== Sys2Proof/Machine/Validator.lean ====
section
/-! DEFINITION. Unit VAL: the stages ST_GUARD, ST_EXTRACT and ST_VERIFY of a transaction (41_frame_validator R82 to R86,
43_port_operations R118). Each passes to the next stage or rejects. -/

namespace Sys2Proof.Machine

/-- Whether stage 1 looks at byte 0: in `V1_EARLY` only when the length check has passed, in `V2_CRC` whenever there is
a byte (41_frame_validator R81, R82). -/
def guardReadsFirst (p : Params) (n : Nat) : Bool :=
  if lenBeforeSync p then !tooShort p n else n != 0

/-- The byte stage 1 compares with `SYNC`, where it looks at one. -/
def guardFirstByte (s : State) : Except Fault (Option Byte) :=
  if guardReadsFirst s.cfg s.rxlen then
    match rxRead s 0 with
    | .error f => .error f
    | .ok b => .ok (some b)
  else .ok none

/-- ST_GUARD: the overflow mark first, then the length and sync checks in the order of the variant (R82, R83, R134, R136). -/
def stageGuard (s : State) : Host.Outcome State Fault Refusal :=
  if s.rxovf then .next (reject .overflow s)
  else
    match guardFirstByte s with
    | .error f => .fault f
    | .ok first =>
      match guardCause s.cfg s.rxlen first with
      | some c => .next (reject c s)
      | none => .next (setStage .extract s)

/-- ST_EXTRACT: `CLAIMED <- RXBUF[n-2] | (RXBUF[n-1] << 8)` (R84). -/
def stageExtract (s : State) : Host.Outcome State Fault Refusal :=
  if s.rxlen < crcLen then .fault .rxReadIllegal
  else
    match rxRead s (s.rxlen - 2), rxRead s (s.rxlen - 1) with
    | .ok low, .ok high => .next (setStage .verify (setClaimed (joinWord low high) s))
    | .error f, _ => .fault f
    | .ok _, .error f => .fault f

/-- ST_VERIFY: the CRC of all bytes but the last two against `CLAIMED`, where the variant verifies (R85, R86). -/
def stageVerify (s : State) : Host.Outcome State Fault Refusal :=
  if verifyRxCrc s.cfg then
    match verifyLoop (s.rxlen - crcLen) (setIdx 0 (crcInit s)) with
    | .error f => .fault f
    | .ok s1 =>
      if crcBad (crcFinal s1) s1.claimed then
        .next (reject (.crc (crcFinal s1) s1.claimed) (setComputed (crcFinal s1) s1))
      else .next (setStage .dispatch (setComputed (crcFinal s1) s1))
  else .next (setStage .dispatch s)

end Sys2Proof.Machine
end

