-- ==== Sys2Proof/Machine/Sequencer.lean ====
section
/-! DEFINITION. What the block does next: the stages of a transaction in their order, the host's operations with their
holds, and how a command is placed for the next step. -/

namespace Sys2Proof.Machine

/-- One stage of a transaction (43_port_operations R118). ST_SEAL runs the command that `CMD` decodes to. -/
def runStage (s : State) : Host.Outcome State Fault Refusal :=
  match s.stage with
  | .idle => .fault .noStage
  | .guard => stageGuard s
  | .extract => stageExtract s
  | .verify => stageVerify s
  | .dispatch => stageDispatch s
  | .sealing => exec (decodeCode s.cfg.consts s.cmd) s

/-- What the block does by itself: the next stage in PROC; in RECV and SEND it waits for the host (R118, R120, 60 R141). -/
def advance (s : State) : Host.Outcome State Fault Refusal :=
  if s.phase = .proc then runStage s else .next s

/-- The effect of an enabled operation, which has left the queue. -/
def perform (op : HostOp) (s : State) : Host.Outcome State Fault Refusal :=
  match op with
  | .rxByte b => opRxByte b s
  | .rxEnd => opRxEnd s
  | .txPop => opTxPop s
  | .reset => opReset s
  | .strap pin => opStrap pin s
  | .wait => advance s

/-- One step: the host's next operation if it is enabled; if it is held, or there is none, the block goes on by itself
(R120, R122; entries 5 and 7). -/
def sequenceStep (s : State) : Host.Outcome State Fault Refusal :=
  match s.inputs with
  | [] => advance s
  | op :: rest => if opEnabled op s.phase then perform op (setInputs rest s) else advance s

/-- The state in which the next step runs the command with code `c`: the transaction on the validated frame
`REQ(00, c)` has reached ST_SEAL, and nothing from the host comes before it (entry 11). -/
def loadCommand (c : Byte) (s : State) : State :=
  { s with
    rxbuf := Memory.ofBytesFrom 0 (frameOfCode s.cfg.consts c)
    rxlen := (frameOfCode s.cfg.consts c).length
    rxovf := false
    txlen := 0
    txptr := 0
    claimed := computeCrc s.cfg.consts [s.cfg.consts.sync, 0x00, c]
    computed := computeCrc s.cfg.consts [s.cfg.consts.sync, 0x00, c]
    cmd := c
    phase := .proc
    stage := .sealing
    inputs := [] }

end Sys2Proof.Machine
end

