-- ==== Sys2Proof/Machine/Step.lean ====
section
/-! DEFINITION. One step of the block, and the placing of one command for it. -/

namespace Sys2Proof.Machine

/-- One step (43_port_operations R116 to R122). -/
def step (s : State) : Host.Outcome State Fault Refusal :=
  sequenceStep s

/-- The state with the command of one opcode-table word placed where the next step takes it: the latch `CMD`, in ST_SEAL
of the transaction on the frame that carries it (entry 11). The table's word is 8 bits. -/
def State.withFetchWord (s : State) (_nbits w : Nat) : State :=
  loadCommand (BitVec.ofNat 8 w) s

end Sys2Proof.Machine
end

