-- ==== Sys2Proof/Machine/Ports.lean ====
section
/-! DEFINITION. The pins (43_port_operations R115) as functions of the state and of the event, and the operations that one
clock cycle of input pins amounts to. Values the spec leaves unspecified are free values (R121, 93 U9; entry 20). -/

namespace Sys2Proof.Machine

/-- `rx_ready`: 1 exactly when PHASE is RECV. -/
def pinRxReady (s : State) : Bool := s.phase == .recv

/-- `tx_valid`: 1 exactly when PHASE is SEND. -/
def pinTxValid (s : State) : Bool := s.phase == .send

/-- `tx_last`: 1 when `tx_valid` and `TXPTR` = `TXLEN` - 1. -/
def pinTxLast (s : State) : Bool := pinTxValid s && decide (s.txptr + 1 = s.txlen)

/-- `tx_data`: `TXBUF[TXPTR]` while `tx_valid`; otherwise a free value, which `k` picks (entry 20). -/
def pinTxData (k : Nat) (s : State) : Byte :=
  match txRead s s.txptr with
  | .ok b => b
  | .error _ => Config.freeTxData k

/-- The number of a diagnostic kind, `diag_kind` (R121). -/
def diagKind (d : Diag) : BitVec 3 :=
  match d with
  | .ok _ => 0
  | .unknown _ => 1
  | .rejected .short => 2
  | .rejected .sync => 3
  | .rejected (.crc _ _) => 4
  | .rejected .overflow => 5

/-- The diagnostic pins. -/
structure DiagPins where
  valid : Bool
  kind : BitVec 3
  code : Byte
  computed : Word
  claimed : Word
deriving DecidableEq, Repr

/-- The diagnostic pins of an event, or of none; `k` picks the free values (R115, R121). -/
def diagPins (k : Nat) (d : Option Diag) : DiagPins :=
  match d with
  | none =>
    ⟨false, Config.freeDiagKind k, Config.freeDiagCode k, Config.freeDiagComputed k, Config.freeDiagClaimed k⟩
  | some (.ok c) => ⟨true, diagKind (.ok c), c, Config.freeDiagComputed k, Config.freeDiagClaimed k⟩
  | some (.unknown c) => ⟨true, diagKind (.unknown c), c, Config.freeDiagComputed k, Config.freeDiagClaimed k⟩
  | some (.rejected (.crc computed claimed)) =>
    ⟨true, diagKind (.rejected (.crc computed claimed)), Config.freeDiagCode k, computed, claimed⟩
  | some (.rejected c) =>
    ⟨true, diagKind (.rejected c), Config.freeDiagCode k, Config.freeDiagComputed k, Config.freeDiagClaimed k⟩

/-- The input pins in one clock cycle, the strap apart. -/
structure InPins where
  rst : Bool
  rxData : Byte
  rxValid : Bool
  rxEnd : Bool
  txReady : Bool
deriving DecidableEq, Repr

/-- The operations accepted in a cycle that begins in phase `ph`: reset alone when `rst` is 1 (entry 20); in RECV the
byte first and the end mark second (R115); in SEND one pop; otherwise none. -/
def acceptedOps (ph : Phase) (p : InPins) : List HostOp :=
  if p.rst then [.reset]
  else
    match ph with
    | .recv =>
      (if p.rxValid then [HostOp.rxByte p.rxData] else []) ++ (if p.rxEnd then [HostOp.rxEnd] else [])
    | .send => if p.txReady then [.txPop] else []
    | .proc => []

end Sys2Proof.Machine
end

