-- ==== Sys2Proof/Machine/Process.lean ====
section
/-! DEFINITION. The source's transaction function `process_command` (41_frame_validator R80, R81), the normative behaviour
that a transaction at the ports computes (43_port_operations R118, R123), written as R81 writes it. -/

namespace Sys2Proof.Machine

/-- What one transaction gives: a response frame or none, and the one diagnostic event. -/
structure Result where
  response : Option (List Byte)
  diag : Diag
deriving DecidableEq, Repr

/-- `raise E_x` in the function: no response and one diagnostic. -/
def Result.raise (c : Cause) : Result :=
  { response := none, diag := .rejected c }

/-- Stages 4 and 5 for the code `c` (R81, 42_command_mux R95, R102, R103). -/
def respondTo (p : Params) (c : Byte) : Result :=
  let known := (romRead p.consts c).1
  let template := (romRead p.consts c).2
  { response := some (if known || sealFallback p then sealBytes p.consts template else template)
    diag := if known then .ok c else .unknown c }

/-- Stages 2 to 5 of R81, for a buffer that passed stage 1. -/
def processChecked (p : Params) (raw : List Byte) : Result :=
  match claimedOf raw with
  | none => .raise .short
  | some claimed =>
    let computed := computeCrc p.consts (coveredBytes raw)
    if verifyRxCrc p && (computed != claimed) then .raise (.crc computed claimed)
    else
      match raw[p.consts.cmdIndex]? with
      | none => .raise .short
      | some c => respondTo p c

/-- `process_command(raw)` (R81). -/
def processCommand (p : Params) (raw : List Byte) : Result :=
  if lenBeforeSync p then
    if raw.length < minLen p then .raise .short
    else
      match raw with
      | [] => .raise .short
      | b :: _ => if b != p.consts.sync then .raise .sync else processChecked p raw
  else
    match raw with
    | [] => .raise .short
    | b :: _ =>
      if b != p.consts.sync then .raise .sync
      else if raw.length < minLen p then .raise .short
      else processChecked p raw

/-- The transaction of the wrapper: the overflow check in front of the function (R81, 43_port_operations R118, R134). -/
def processEvent (p : Params) (overflowed : Bool) (raw : List Byte) : Result :=
  if overflowed then .raise .overflow else processCommand p raw

end Sys2Proof.Machine
end

