-- ==== Sys2Proof/Safety.lean ====
section
/-! DEFINITION. What a safe run is: the idle state, the invariant of every run, the registers a later step can read, and
host programs. -/

namespace Sys2Proof.Safety

open Sys2Proof.Machine

/-- The idle state (10_state R22). -/
def Idle (s : State) : Prop :=
  s.phase = .recv ∧ s.stage = .idle ∧ s.rxlen = 0 ∧ s.rxovf = false ∧ s.txlen = 0 ∧ s.txptr = 0

/-- Every index below `n` holds a byte. -/
def Filled (m : Memory) (n : Nat) : Prop :=
  ∀ i, i < n → (m.get? i).isSome = true

/-- `RECV` (10_state R15, R22): no stage and no response. -/
def RecvOk (s : State) : Prop :=
  s.stage = .idle ∧ s.txlen = 0 ∧ s.txptr = 0

/-- `PROC` (10_state R15, R16): a stage, no response yet; past ST_GUARD the buffer did not overflow and passed the length
check (41_frame_validator R82). -/
def ProcOk (s : State) : Prop :=
  s.stage ≠ .idle ∧ s.txlen = 0 ∧ s.txptr = 0 ∧
    (s.stage ≠ .guard → s.rxovf = false ∧ minLen s.cfg ≤ s.rxlen)

/-- `SEND` (10_state R14, R15; 43_port_operations R119): a response of 3 to 9 bytes, each written, the next one below its
end; the inbound buffer is empty. -/
def SendOk (s : State) : Prop :=
  s.stage = .idle ∧ s.rxlen = 0 ∧ s.rxovf = false ∧ 3 ≤ s.txlen ∧ s.txlen ≤ s.cfg.consts.txMax ∧
    s.txptr < s.txlen ∧ Filled s.txbuf s.txlen

/-- What holds of the machine in every phase. -/
def PhaseOk (s : State) : Prop :=
  match s.phase with
  | .recv => RecvOk s
  | .proc => ProcOk s
  | .send => SendOk s

/-- The invariant of every run: legal parameters, canonical buffers, the received bytes present and within the capacity,
the overflow mark only on a full buffer, `IDX` within its width, and what the phase asks for. -/
structure Inv (s : State) : Prop where
  legal : paramsLegal s.cfg = true
  rxCanonical : s.rxbuf.wf = true
  txCanonical : s.txbuf.wf = true
  rxFilled : Filled s.rxbuf s.rxlen
  rxCapacity : rxFits s.cfg s.rxlen = true
  ovfFull : s.rxovf = true → rxHasRoom s.cfg s.rxlen = false
  idxWidth : fitsIndexWidth s.cfg s.idx = true
  phaseOk : PhaseOk s

/-- The next step is not a strap change during a transaction (70_reset R158). -/
def StrapStable (s : State) : Prop :=
  s.phase = .proc → ∀ pin rest, s.inputs ≠ .strap pin :: rest

/-- The next step is the block's own: the host asks for nothing, or what it asks for is held in PROC
(43_port_operations R120). -/
def HostHeldOrSilent (s : State) : Prop :=
  s.inputs = [] ∨ ∃ op rest, s.inputs = op :: rest ∧ opEnabled op .proc = false

/-- `RXBUF` holds the bytes of `raw` as the current read event. -/
def HoldsFrame (s : State) (raw : List Byte) : Prop :=
  s.rxlen = raw.length ∧ ∀ i, i < raw.length → s.rxbuf.get? i = raw[i]?

/-- What the host will receive for a response: each byte, the last one marked (43_port_operations R119). -/
def marked : List Byte → List (Byte × Bool)
  | [] => []
  | [b] => [(b, true)]
  | b :: c :: bs => (b, false) :: marked (c :: bs)

/-- The block waits with the response `resp` in `TXBUF`, one event `d` more than in `s`, and an empty inbound buffer
(43_port_operations R118: the end of ST_SEAL). -/
def Answered (s t : State) (resp : List Byte) (d : Diag) : Prop :=
  t.phase = .send ∧ t.stage = .idle ∧ t.txlen = resp.length ∧ t.txptr = 0 ∧ t.rxlen = 0 ∧ t.rxovf = false ∧
    t.diags = s.diags ++ [d] ∧ ∀ i, i < resp.length → t.txbuf.get? i = resp[i]?

/-- The row of the Response Table that a command answers with; none for `UNKNOWN` (30_encoding R50, 42_command_mux R101). -/
def rowOf (k : Constants) (i : Instr) : Option ResponseRow :=
  match i with
  | .queryId => some k.respTable.queryId
  | .abortTx => some k.respTable.abortTx
  | .applyCfg => some k.respTable.applyCfg
  | .sendData => some k.respTable.sendData
  | .queryBurst => some k.respTable.queryBurst
  | .unknown _ => none

/-- The stage after a stage (10_state R16). -/
def stageAfter : Stage → Stage
  | .guard => .extract
  | .extract => .verify
  | .verify => .dispatch
  | .dispatch => .sealing
  | .sealing => .idle
  | .idle => .idle

/-- A sequence with bit `j` of its byte `k` flipped. -/
def flipBit (raw : List Byte) (k j : Nat) : List Byte :=
  raw.modify k (fun b => b ^^^ (1#8 <<< j))

/-- `SUBMIT(s)`: push every byte, then the end mark (30_encoding R57). -/
def submit (raw : List Byte) : List HostOp :=
  raw.map HostOp.rxByte ++ [.rxEnd]

/-- `DRAIN` for a response, one pop a byte; nothing where there is no response (30_encoding R57). -/
def drain (response : Option (List Byte)) : List HostOp :=
  List.replicate (response.getD []).length .txPop

/-- Two states agree on everything a later step can read (10_state R10, R12, R22): the latches only between the stage
that writes them and the stage that reads them, the buffers only below their lengths. Left out of the comparison: `ACC`,
`COMPUTED`, `IDX`, dead latches, stale buffer bytes, the free-value counter. -/
structure LiveAgree (s t : State) : Prop where
  cfg : s.cfg = t.cfg
  phase : s.phase = t.phase
  stage : s.stage = t.stage
  rxlen : s.rxlen = t.rxlen
  rxovf : s.rxovf = t.rxovf
  txlen : s.txlen = t.txlen
  txptr : s.txptr = t.txptr
  inputs : s.inputs = t.inputs
  rxBytes : ∀ i, i < s.rxlen → s.rxbuf.get? i = t.rxbuf.get? i
  txBytes : s.phase = .send → ∀ i, i < s.txlen → s.txbuf.get? i = t.txbuf.get? i
  claimedLive : s.stage = .verify → s.claimed = t.claimed
  cmdLive : s.stage = .sealing → s.cmd = t.cmd

/-- What the environment has seen of two runs is the same. -/
def SameOutputs (s t : State) : Prop :=
  s.sent = t.sent ∧ s.diags = t.diags

end Sys2Proof.Safety
end

