-- ==== Sys2Proof/Certificates/Slice0/Obligations.lean ====
section
/-! DEFINITION. The statements for the provers. Each cites the rules of spec/ it formalises in OBLIGATIONS.json. -/

open Sys2Proof Sys2Proof.Machine Sys2Proof.Safety

/-! ### The opcode table, the ROM and the frame -/

/-- 30_encoding R53: the opcode table has thirteen rows, exactly one of which matches any code, and its mnemonic is that of
the command which the given Response Table decodes the code to; five codes are recognized and every other one is
`UNKNOWN`. That exactly one row matches is what R53 marks as derived. -/
def Obligations.EveryCodeSelectsOneCommand : Prop :=
  opTable.length = 13 ∧
    ∀ c : Byte,
      (opTable.filter (fun r => opRowMatches r c)).map (·.mnemonic) = [mnemonicOf (decodeCode constants c)] ∧
      decodeCode constants c =
        if c = 0x01 then .queryId else if c = 0x03 then .abortTx else if c = 0x06 then .applyCfg
        else if c = 0x00 then .sendData else if c = 0x04 then .queryBurst else .unknown c

/-- 00_scope section 4, 10_state R18 (the table of its section 6), 30_encoding R50: the values of the hardwired constants,
that they are legal, and that the reset state has them. What makes constants legal is entry 28. -/
def Obligations.ConstantsHaveTheGivenValues : Prop :=
  constants.sync = 0xAA ∧ constants.crcInit = 0xFFFF ∧ constants.polyReflected = 0x8408 ∧
    constants.crcXorout = 0xFFFF ∧ constants.cmdIndex = 2 ∧ constants.minLenV1 = 5 ∧ constants.txMax = 9 ∧
    constants.fallback = [0xAA, 0xFF, 0xFF] ∧
    (tableRows constants).map (·.code) = [0x01, 0x03, 0x06, 0x00, 0x04] ∧
    constantsLegal constants = true ∧ State.reset.cfg.consts = constants

/-- 10_state R19, 30_encoding R50: the Response Table. -/
def Obligations.RomHoldsTheResponseTable : Prop :=
  ∀ c : Byte, romRead constants c =
    if c = 0x01 then (true, [0xAA, 0x09, 0x01, 0x00, 0x23, 0x18, 0x60])
    else if c = 0x03 then (true, [0xAA, 0x05, 0x03])
    else if c = 0x06 then (true, [0xAA, 0x05, 0x06])
    else if c = 0x00 then (true, [0xAA, 0x05, 0x00])
    else if c = 0x04 then (true, [0xAA, 0x06, 0x04, 0x00])
    else (false, [0xAA, 0xFF, 0xFF])

/-- Frames written out byte by byte from 30_encoding R47 and the worked requests of 95_test_vectors decode to the
requests they stand for. -/
def Obligations.WrittenOutFramesDecode : Prop :=
  decodeFrame defaultParams [0xAA, 0x00, 0x01, 0xE8, 0xAB] = .ok ⟨.queryId, 0x00, []⟩ ∧
  decodeFrame defaultParams [0xAA, 0x05, 0x03, 0x42, 0xF6] = .ok ⟨.abortTx, 0x05, []⟩ ∧
  decodeFrame defaultParams [0xAA, 0x00, 0x06, 0xAA, 0xAA, 0x1D, 0xE7] = .ok ⟨.applyCfg, 0x00, [0xAA, 0xAA]⟩ ∧
  decodeFrame defaultParams [0xAA, 0x08, 0x00, 0x11, 0x22, 0x33, 0xB1, 0xC8] =
    .ok ⟨.sendData, 0x08, [0x11, 0x22, 0x33]⟩ ∧
  decodeFrame defaultParams [0xAA, 0x00, 0x04, 0x45, 0xFC] = .ok ⟨.queryBurst, 0x00, []⟩ ∧
  decodeFrame defaultParams [0xAA, 0x00, 0x99, 0x29, 0xB3] = .ok ⟨.unknown 0x99, 0x00, []⟩ ∧
  decodeFrame defaultParams [0xAA, 0x00, 0x01, 0x00, 0x00] = .error (.crc 0xABE8 0x0000)

/-- 30_encoding R47, R57: the frame of every well-formed request decodes to that request, under every legal value of the
parameters and of the constants. -/
def Obligations.DecodeOfEncodedRequestIsTheRequest : Prop :=
  ∀ (p : Params) (r : Request), paramsLegal p = true → r.wf p.consts = true →
    decodeFrame p (encodeRequest p.consts r) = .ok r

/-- 30_encoding R47: where the CRC is verified, a buffer of at least five bytes that decodes is the frame of what it
decodes to, which is well formed. -/
def Obligations.EncodeOfDecodedFrameIsTheFrame : Prop :=
  ∀ (p : Params) (raw : List Byte) (r : Request), paramsLegal p = true → verifyRxCrc p = true → 5 ≤ raw.length →
    decodeFrame p raw = .ok r → r.wf p.consts = true ∧ encodeRequest p.consts r = raw

/-! ### The CRC engine -/

/-- 40_crc_engine R66, R67, R68, R70: the four micro-operations, with the constants by name and with their given values;
each that writes, writes `ACC` and nothing else. -/
def Obligations.CrcMicroOperationsActOnAcc : Prop :=
  (∀ (s : State) (b : Byte),
    crcInit s = { s with acc := s.cfg.consts.crcInit } ∧
    crcXorin b s = { s with acc := s.acc ^^^ b.setWidth 16 } ∧
    (∀ i, 8 ≤ i → (crcXorin b s).acc.getLsbD i = s.acc.getLsbD i) ∧
    crcShift s =
      { s with acc := if s.acc.getLsbD 0 = true then (s.acc >>> 1) ^^^ s.cfg.consts.polyReflected else s.acc >>> 1 } ∧
    crcFinal s = s.acc ^^^ s.cfg.consts.crcXorout) ∧
  constants.crcInit = 0xFFFF ∧ constants.polyReflected = 0x8408 ∧ ∀ a : Word, a ^^^ constants.crcXorout = ~~~a

/-- 40_crc_engine R69: one XOR and then exactly eight shifts, on `ACC` alone; zero stays zero; the worked example. -/
def Obligations.CrcByteIsOneXorAndEightShifts : Prop :=
  (∀ (s : State) (b : Byte),
    crcByte b s =
      crcShift (crcShift (crcShift (crcShift (crcShift (crcShift (crcShift (crcShift (crcXorin b s)))))))) ∧
    crcByte b s = { s with acc := (crcByte b s).acc }) ∧
  accByte constants 0x0000 0x00 = 0x0000 ∧ accByte constants 0xFFFF 0xAA = 0x05D7

/-- 40_crc_engine R71, 42_command_mux R102, 43_port_operations R118: `CRC_INIT`, `CRC_BYTE` of each byte in order,
`CRC_FINAL`; the loop of ST_SEAL is that loop; the worked example. That the empty sequence gives 0 is the sentence which
R71 marks as derived from R66 and R70. -/
def Obligations.EngineFoldsTheBytesInOrder : Prop :=
  (∀ (s : State) (bs : List Byte),
    crcFinal (bs.foldl (fun t b => crcByte b t) (crcInit s)) = computeCrc s.cfg.consts bs ∧
    crcFinal (sealLoop bs (crcInit s)) = computeCrc s.cfg.consts bs) ∧
  (∀ (k : Constants) (bs : List Byte), computeCrc k bs = accFinal k (bs.foldl (accByte k) k.crcInit)) ∧
  computeCrc constants [] = 0x0000 ∧ accBytes constants 0xFFFF [0xAA] = 0x05D7 ∧
    accBytes constants 0xFFFF [0xAA, 0x00] = 0xA237 ∧ accBytes constants 0xFFFF [0xAA, 0x00, 0x01] = 0x5417 ∧
    computeCrc constants [0xAA, 0x00, 0x01] = 0xABE8

/-- 40_crc_engine R75, which the spec marks as derived: the byte-at-a-time form with the table of eight shifts. -/
def Obligations.CrcByteHasTheTableForm : Prop :=
  ∀ (k : Constants) (a : Word) (b : Byte),
    accByte k a b = (a >>> 8) ^^^ crcTable k ((a ^^^ b.setWidth 16).setWidth 8)

/-- 40_crc_engine R76, which the spec marks as derived: streaming, and the round trip of sealing and verifying. -/
def Obligations.CrcStreamsAndSealedSequencesVerify : Prop :=
  ∀ k : Constants,
    (∀ (a : Word) (s t : List Byte), accBytes k a (s ++ t) = accBytes k (accBytes k a s) t) ∧
    (∀ s t : List Byte, accFinal k (accBytes k (accBytes k k.crcInit s) t) = computeCrc k (s ++ t)) ∧
    ∀ p : List Byte, claimedOf (sealBytes k p) = some (computeCrc k (coveredBytes (sealBytes k p)))

/-- 40_crc_engine R77, which the spec marks as derived: with the given constants the accumulator after a buffer is the
residue exactly when the buffer is correctly sealed, and the CRC of a sealed sequence is a constant. -/
def Obligations.ResidueTellsSealedSequences : Prop :=
  (∀ p : List Byte, accBytes constants 0xFFFF (sealBytes constants p) = 0xF0B8 ∧
    computeCrc constants (sealBytes constants p) = 0x0F47) ∧
  ∀ raw : List Byte, 2 ≤ raw.length →
    (accBytes constants 0xFFFF raw = 0xF0B8 ↔ claimedOf raw = some (computeCrc constants (coveredBytes raw)))

/-- 40_crc_engine R78, whose certainty the spec takes from general knowledge: under a polynomial with a nonzero constant
term (bit 15 of the reflected constant), as the given one is, flipping any one bit of a sealed sequence makes the claimed
and the computed CRC differ, and of a sealed request, under any legal parameters that verify, gives no response and one
rejection. -/
def Obligations.SingleBitMutationGetsNoResponse : Prop :=
  constants.polyReflected.getLsbD 15 = true ∧
  (∀ (c : Constants) (p : List Byte) (k j : Nat), c.polyReflected.getLsbD 15 = true →
    k < (sealBytes c p).length → j < 8 →
    claimedOf (flipBit (sealBytes c p) k j) ≠ some (computeCrc c (coveredBytes (flipBit (sealBytes c p) k j)))) ∧
  ∀ (p : Params) (r : Request) (k j : Nat), paramsLegal p = true → verifyRxCrc p = true →
    p.consts.polyReflected.getLsbD 15 = true → k < (encodeRequest p.consts r).length → j < 8 →
      ∃ c, processCommand p (flipBit (encodeRequest p.consts r) k j) = { response := none, diag := .rejected c }

/-- 20_memory R32, R33: the CRC field is low byte first, is read back by joining low and high, and the two are inverse. -/
def Obligations.CrcFieldIsLittleEndian : Prop :=
  (∀ (k : Constants) (p : List Byte),
    sealBytes k p = p ++ [(computeCrc k p).extractLsb' 0 8, (computeCrc k p).extractLsb' 8 8]) ∧
  (∀ (p : List Byte) (low high : Byte),
    claimedOf (p ++ [low, high]) = some (low.setWidth 16 ||| (high.setWidth 16 <<< 8))) ∧
  ∀ c : Word, joinWord (c.extractLsb' 0 8) (c.extractLsb' 8 8) = c

/-! ### The stages of the validator -/

/-- 41_frame_validator R82, R83: ST_GUARD in both variants, behind the overflow check of 43_port_operations R118, and the
given values of the two constants it compares with. -/
def Obligations.GuardStageChecksInOrder : Prop :=
  (∀ s : State, s.phase = .proc →
    (s.rxovf = true → stageGuard s = .next (reject .overflow s)) ∧
    (s.rxovf = false → s.cfg.variant = .v1Early →
      (s.rxlen < s.cfg.consts.minLenV1 → stageGuard s = .next (reject .short s)) ∧
      ∀ b, 0 < s.rxlen → s.cfg.consts.minLenV1 ≤ s.rxlen → s.rxbuf.get? 0 = some b →
        stageGuard s =
          if b = s.cfg.consts.sync then .next { s with stage := .extract } else .next (reject .sync s)) ∧
    (s.rxovf = false → s.cfg.variant = .v2Crc →
      (s.rxlen = 0 → stageGuard s = .next (reject .short s)) ∧
      ∀ b, 0 < s.rxlen → s.rxbuf.get? 0 = some b →
        stageGuard s =
          if b ≠ s.cfg.consts.sync then .next (reject .sync s)
          else if s.rxlen < s.cfg.minLenV2 then .next (reject .short s)
          else .next { s with stage := .extract })) ∧
  constants.sync = 0xAA ∧ constants.minLenV1 = 5

/-- 41_frame_validator R84: ST_EXTRACT. -/
def Obligations.ExtractStageLatchesTheClaimedCrc : Prop :=
  ∀ (s : State) (low high : Byte), s.phase = .proc → 2 ≤ s.rxlen →
    s.rxbuf.get? (s.rxlen - 2) = some low → s.rxbuf.get? (s.rxlen - 1) = some high →
      stageExtract s =
        .next { s with claimed := low.setWidth 16 ||| (high.setWidth 16 <<< 8), stage := .verify }

/-- 41_frame_validator R85: ST_VERIFY, where the variant verifies, computes the CRC of all bytes but the last two and
compares all sixteen bits with `CLAIMED`; it writes `COMPUTED`, `ACC` and `IDX`. -/
def Obligations.VerifyStageComparesTheCrc : Prop :=
  ∀ (s : State) (raw : List Byte), s.phase = .proc → 2 ≤ raw.length → HoldsFrame s raw → verifyRxCrc s.cfg = true →
    ∃ acc idx,
      stageVerify s =
        if computeCrc s.cfg.consts (raw.take (raw.length - 2)) = s.claimed then
          .next { s with acc := acc, idx := idx, computed := computeCrc s.cfg.consts (raw.take (raw.length - 2)),
                         stage := .dispatch }
        else
          .next (reject (.crc (computeCrc s.cfg.consts (raw.take (raw.length - 2))) s.claimed)
            { s with acc := acc, idx := idx, computed := computeCrc s.cfg.consts (raw.take (raw.length - 2)) })

/-- 41_frame_validator R86: `V1_EARLY` verifies exactly when its parameter says so, by default it does, and then it
validates a buffer of at least five bytes as `V2_CRC` does; when it does not verify, ST_EXTRACT still writes `CLAIMED`,
ST_VERIFY writes nothing but `STAGE`, no buffer is rejected for its CRC, and every buffer of at least five bytes that
begins with the sync byte gets a response. -/
def Obligations.EarlyVariantVerifiesByItsParameter : Prop :=
  (∀ p : Params, p.variant = .v1Early → verifyRxCrc p = p.v1VerifyRxCrc) ∧
  (∀ p : Params, p.variant = .v2Crc → verifyRxCrc p = true) ∧
  State.reset.cfg.v1VerifyRxCrc = true ∧
  (∀ (p q : Params) (raw : List Byte), paramsLegal q = true → p.consts = q.consts → p.variant = .v1Early →
    p.v1VerifyRxCrc = true → q.variant = .v2Crc → 5 ≤ raw.length → validateFrame p raw = validateFrame q raw) ∧
  (∀ s : State, s.cfg.variant = .v1Early → s.cfg.v1VerifyRxCrc = false →
    stageVerify s = .next { s with stage := .dispatch } ∧
    ∀ low high, s.phase = .proc → 2 ≤ s.rxlen → s.rxbuf.get? (s.rxlen - 2) = some low →
      s.rxbuf.get? (s.rxlen - 1) = some high →
        stageExtract s = .next { s with claimed := joinWord low high, stage := .verify }) ∧
  ∀ (p : Params) (raw : List Byte), p.variant = .v1Early → p.v1VerifyRxCrc = false →
    (∀ computed claimed, (processCommand p raw).diag ≠ .rejected (.crc computed claimed)) ∧
    (constantsLegal p.consts = true → 5 ≤ raw.length → raw[0]? = some p.consts.sync →
      (processCommand p raw).response.isSome = true)

/-- 42_command_mux R95: ST_DISPATCH latches the byte at the command index, which is 2, behind its guard. That what follows
is decided by the entry (known, template) which the ROM holds for the code is read off in ST_SEAL (entry 10, DEDUCED); that
with the given constants the guard never fires on a buffer that passed stages 1 to 3 is the inference which R95 marks as
derived from R71, R84 and R85. -/
def Obligations.DispatchStageLatchesTheCode : Prop :=
  (∀ s : State, s.phase = .proc →
    (s.rxlen ≤ s.cfg.consts.cmdIndex → stageDispatch s = .next (reject .short s)) ∧
    ∀ c, s.cfg.consts.cmdIndex < s.rxlen → s.rxbuf.get? s.cfg.consts.cmdIndex = some c →
      stageDispatch s = .next { s with cmd := c, stage := .sealing }) ∧
  (∀ k : Constants, constantsLegal k = true → k.cmdIndex = 2) ∧
  (∀ (s : State) (c : Byte),
    exec (decodeCode s.cfg.consts c) s =
      sendResponse (romRead s.cfg.consts c).2 ((romRead s.cfg.consts c).1 || sealFallback s.cfg)
        (if (romRead s.cfg.consts c).1 = true then .ok c else .unknown c) s) ∧
  ∀ (p : Params) (raw : List Byte), paramsLegal p = true → p.consts = constants → validateFrame p raw = none →
    2 < raw.length

/-- 60_exceptions R137: a rejection emits one event, gives no response, discards the buffer, returns to the idle state and
does nothing else. -/
def Obligations.RejectionDoesThisAndNothingElse : Prop :=
  ∀ (c : Cause) (s : State),
    reject c s =
      { s with
        diags := s.diags ++ [.rejected c]
        txlen := 0
        txptr := 0
        rxlen := 0
        rxovf := false
        stage := .idle
        phase := .recv } ∧
    Idle (reject c s)

/-- 60_exceptions R131, R132, R133, R136: a transaction reports the first check that fails, in the order of the variant:
overflow, then `V1_EARLY` length, sync, CRC, and `V2_CRC` emptiness, sync, length, CRC, where a CRC mismatch carries both
values; it answers exactly when no check fails. With the given constants. -/
def Obligations.RejectionCauseIsThatOfTheFirstFailingCheck : Prop :=
  ∀ (p : Params) (ovf : Bool) (raw : List Byte), paramsLegal p = true → p.consts = constants →
    ((processEvent p ovf raw).diag = .rejected .overflow ↔ ovf = true) ∧
    ((processEvent p ovf raw).diag = .rejected .short ↔ ovf = false ∧
      (p.variant = .v1Early ∧ raw.length < 5 ∨
        p.variant = .v2Crc ∧ (raw = [] ∨ raw[0]? = some 0xAA ∧ raw.length < p.minLenV2))) ∧
    ((processEvent p ovf raw).diag = .rejected .sync ↔ ovf = false ∧ raw[0]? ≠ some 0xAA ∧
      (p.variant = .v1Early ∧ 5 ≤ raw.length ∨ p.variant = .v2Crc ∧ raw ≠ [])) ∧
    (∀ computed claimed, (processEvent p ovf raw).diag = .rejected (.crc computed claimed) ↔
      ovf = false ∧ raw[0]? = some 0xAA ∧ minLen p ≤ raw.length ∧ verifyRxCrc p = true ∧
        computed = computeCrc constants (coveredBytes raw) ∧ claimedOf raw = some claimed ∧ computed ≠ claimed) ∧
    ((processEvent p ovf raw).response.isSome = true ↔ ∀ c, (processEvent p ovf raw).diag ≠ .rejected c)

/-! ### The commands -/

/-- 42_command_mux R96: the answer, the same for every `META` and payload. -/
def Obligations.QueryIdAnswersTheIdentity : Prop :=
  (∀ s : State, s.phase = .proc → s.cfg.consts = constants →
    ∃ t, exec .queryId s = .next t ∧ Answered s t [0xAA, 0x09, 0x01, 0x00, 0x23, 0x18, 0x60, 0x86, 0x7A] (.ok 0x01)) ∧
  computeCrc constants [0xAA, 0x09, 0x01, 0x00, 0x23, 0x18, 0x60] = 0x7A86 ∧
  (∀ (p : Params) (m : Byte) (payload : List Byte), paramsLegal p = true → p.consts = constants →
    processCommand p (encodeRequest constants ⟨.queryId, m, payload⟩) =
      { response := some [0xAA, 0x09, 0x01, 0x00, 0x23, 0x18, 0x60, 0x86, 0x7A], diag := .ok 0x01 }) ∧
  encodeRequest constants ⟨.queryId, 0x00, []⟩ = [0xAA, 0x00, 0x01, 0xE8, 0xAB]

/-- 42_command_mux R97: nothing is aborted; the block only answers: configuration, queue, what was popped, inbound bytes,
latches and the bytes of `TXBUF` beyond the response are as before. -/
def Obligations.AbortTxAnswersOnly : Prop :=
  (∀ s : State, s.phase = .proc → s.cfg.consts = constants →
    ∃ t, exec .abortTx s = .next t ∧ Answered s t [0xAA, 0x05, 0x03, 0x42, 0xF6] (.ok 0x03) ∧
      t.cfg = s.cfg ∧ t.inputs = s.inputs ∧ t.sent = s.sent ∧ t.rxbuf = s.rxbuf ∧ t.claimed = s.claimed ∧
      t.computed = s.computed ∧ t.cmd = s.cmd ∧ t.fresh = s.fresh ∧
      ∀ i, 5 ≤ i → t.txbuf.get? i = s.txbuf.get? i) ∧
  computeCrc constants [0xAA, 0x05, 0x03] = 0xF642 ∧
  (∀ (p : Params) (m : Byte) (payload : List Byte), paramsLegal p = true → p.consts = constants →
    processCommand p (encodeRequest constants ⟨.abortTx, m, payload⟩) =
      { response := some [0xAA, 0x05, 0x03, 0x42, 0xF6], diag := .ok 0x03 }) ∧
  encodeRequest constants ⟨.abortTx, 0x00, []⟩ = [0xAA, 0x00, 0x03, 0xFA, 0x88]

/-- 42_command_mux R98: the configuration is the same after it. -/
def Obligations.ApplyCfgAnswersAndChangesNoConfiguration : Prop :=
  (∀ s : State, s.phase = .proc → s.cfg.consts = constants →
    ∃ t, exec .applyCfg s = .next t ∧ Answered s t [0xAA, 0x05, 0x06, 0xEF, 0xA1] (.ok 0x06) ∧ t.cfg = s.cfg) ∧
  computeCrc constants [0xAA, 0x05, 0x06] = 0xA1EF ∧
  (∀ (p : Params) (m : Byte) (payload : List Byte), paramsLegal p = true → p.consts = constants →
    processCommand p (encodeRequest constants ⟨.applyCfg, m, payload⟩) =
      { response := some [0xAA, 0x05, 0x06, 0xEF, 0xA1], diag := .ok 0x06 }) ∧
  encodeRequest constants ⟨.applyCfg, 0x00, []⟩ = [0xAA, 0x00, 0x06, 0x57, 0xDF]

/-- 42_command_mux R99: code `0x00` is a recognized command, and the payload is ignored. -/
def Obligations.SendDataAnswersWhateverThePayload : Prop :=
  (∀ s : State, s.phase = .proc → s.cfg.consts = constants →
    ∃ t, exec .sendData s = .next t ∧ Answered s t [0xAA, 0x05, 0x00, 0xD9, 0xC4] (.ok 0x00)) ∧
  computeCrc constants [0xAA, 0x05, 0x00] = 0xC4D9 ∧
  (∀ (p : Params) (m : Byte) (payload : List Byte), paramsLegal p = true → p.consts = constants →
    processCommand p (encodeRequest constants ⟨.sendData, m, payload⟩) =
      { response := some [0xAA, 0x05, 0x00, 0xD9, 0xC4], diag := .ok 0x00 }) ∧
  encodeRequest constants ⟨.sendData, 0x00, []⟩ = [0xAA, 0x00, 0x00, 0x61, 0xBA] ∧
  encodeRequest constants ⟨.sendData, 0x00, [0x11, 0x22, 0x33]⟩ = [0xAA, 0x00, 0x00, 0x11, 0x22, 0x33, 0x91, 0x92]

/-- 42_command_mux R100: the state byte is a constant. -/
def Obligations.QueryBurstAnswersAConstant : Prop :=
  (∀ s : State, s.phase = .proc → s.cfg.consts = constants →
    ∃ t, exec .queryBurst s = .next t ∧ Answered s t [0xAA, 0x06, 0x04, 0x00, 0xF4, 0x33] (.ok 0x04)) ∧
  computeCrc constants [0xAA, 0x06, 0x04, 0x00] = 0x33F4 ∧
  (∀ (p : Params) (m : Byte) (payload : List Byte), paramsLegal p = true → p.consts = constants →
    processCommand p (encodeRequest constants ⟨.queryBurst, m, payload⟩) =
      { response := some [0xAA, 0x06, 0x04, 0x00, 0xF4, 0x33], diag := .ok 0x04 }) ∧
  encodeRequest constants ⟨.queryBurst, 0x00, []⟩ = [0xAA, 0x00, 0x04, 0x45, 0xFC]

/-- 42_command_mux R101: the fallback, unsealed in `V2_CRC` and sealed in `V1_EARLY`, for every code outside the recognized
five, which is only in the event. -/
def Obligations.UnknownAnswersTheFallback : Prop :=
  (∀ (s : State) (c : Byte), s.phase = .proc → s.cfg.consts = constants →
    ∃ t, exec (.unknown c) s = .next t ∧
      (s.cfg.variant = .v2Crc → Answered s t [0xAA, 0xFF, 0xFF] (.unknown c)) ∧
      (s.cfg.variant = .v1Early → Answered s t [0xAA, 0xFF, 0xFF, 0xD9, 0x4A] (.unknown c))) ∧
  computeCrc constants [0xAA, 0xFF, 0xFF] = 0x4AD9 ∧
  (∀ c : Byte, c ≠ 0x00 → c ≠ 0x01 → c ≠ 0x03 → c ≠ 0x04 → c ≠ 0x06 → decodeCode constants c = .unknown c ∧
    ∀ (p : Params) (m : Byte) (payload : List Byte), paramsLegal p = true → p.consts = constants →
      (p.variant = .v2Crc → processCommand p (encodeRequest constants ⟨.unknown c, m, payload⟩) =
        { response := some [0xAA, 0xFF, 0xFF], diag := .unknown c }) ∧
      (p.variant = .v1Early → processCommand p (encodeRequest constants ⟨.unknown c, m, payload⟩) =
        { response := some [0xAA, 0xFF, 0xFF, 0xD9, 0x4A], diag := .unknown c })) ∧
  encodeRequest constants ⟨.unknown 0x99, 0x00, []⟩ = [0xAA, 0x00, 0x99, 0x29, 0xB3]

/-- 42_command_mux R103, in the sentence it marks as derived from R71: the unsealed fallback of `V2_CRC`, taken as a frame,
claims FFFF while the CRC of its covered byte is FA28, so a validator that verifies rejects it wherever the length check
lets it through. -/
def Obligations.UnsealedFallbackFailsTheCrcCheck : Prop :=
  claimedOf constants.fallback = some 0xFFFF ∧ coveredBytes constants.fallback = [0xAA] ∧
    computeCrc constants [0xAA] = 0xFA28 ∧
    ∀ p : Params, p.consts = constants → minLen p ≤ 3 → verifyRxCrc p = true →
      processCommand p constants.fallback = { response := none, diag := .rejected (.crc 0xFA28 0xFFFF) }

/-- 00_scope R3, 42_command_mux R106: the rules use the constants by name, so another legal value of a constant is another
configuration and changes no rule: whatever legal constants the block has, each command answers its own row of the Response
Table, sealed, and reports the row's code, and an unknown code is answered with the fallback. Which constants are legal is
entry 28 (DESIGN CHOICE). -/
def Obligations.EveryCommandAnswersItsRow : Prop :=
  ∀ (i : Instr) (s : State), s.phase = .proc → constantsLegal s.cfg.consts = true →
    ∃ t, exec i s = .next t ∧
      (∀ row, rowOf s.cfg.consts i = some row → Answered s t (sealBytes s.cfg.consts row.template) (.ok row.code)) ∧
      ∀ c, i = .unknown c →
        Answered s t
          (if sealFallback s.cfg = true then sealBytes s.cfg.consts s.cfg.consts.fallback else s.cfg.consts.fallback)
          (.unknown c)

/-- 42_command_mux R102: sealing any template that fits: its bytes from index 0, then its CRC low byte first. -/
def Obligations.SealingAppendsTheCrcOfTheTemplate : Prop :=
  ∀ (s : State) (template : List Byte) (d : Diag), s.phase = .proc → template.length + 2 ≤ s.cfg.consts.txMax →
    ∃ t, sendResponse template true d s = .next t ∧
      t.txlen = template.length + 2 ∧
      (∀ i, i < template.length → t.txbuf.get? i = template[i]?) ∧
      t.txbuf.get? template.length = some (lo (computeCrc s.cfg.consts template)) ∧
      t.txbuf.get? (template.length + 1) = some (hi (computeCrc s.cfg.consts template))

/-- The frame of the six commands (42_command_mux R96 to R103, 43_port_operations R118): what no command changes, which
bytes of `TXBUF` are written (those below the new `TXLEN`), and that `ACC` and `IDX` change only where a CRC is
computed. -/
def Obligations.CommandsLeaveEverythingElse : Prop :=
  ∀ (i : Instr) (s t : State), exec i s = .next t →
    t.cfg = s.cfg ∧ t.claimed = s.claimed ∧ t.computed = s.computed ∧ t.cmd = s.cmd ∧ t.rxbuf = s.rxbuf ∧
    t.inputs = s.inputs ∧ t.sent = s.sent ∧ t.fresh = s.fresh ∧
    (∀ k, t.txlen ≤ k → t.txbuf.get? k = s.txbuf.get? k) ∧
    (∀ c, i = .unknown c → s.cfg.variant = .v2Crc → t.acc = s.acc ∧ t.idx = s.idx)

/-- Outside PROC a command stops by name. 20_memory R42 says only that the response multiplexer writes `TXBUF` in PROC, and that
no access raises an exception; that a command outside PROC is the fault `txWriteIllegal` is the model's choice (entry 19,
DESIGN CHOICE). -/
def Obligations.CommandsStopOutsideProc : Prop :=
  ∀ (i : Instr) (s : State), constantsLegal s.cfg.consts = true → s.phase ≠ .proc →
    exec i s = .fault .txWriteIllegal

/-- 42_command_mux R104, which the spec marks as derived: on buffers that pass validation the result depends on the command
code and the parameters alone, and a sealed request for a recognized code gets its template with a correct CRC. -/
def Obligations.ResponseDependsOnTheCodeAlone : Prop :=
  (∀ (p : Params) (raw raw' : List Byte) (c : Byte), paramsLegal p = true →
    validateFrame p raw = none → validateFrame p raw' = none →
    raw[2]? = some c → raw'[2]? = some c → processCommand p raw = processCommand p raw') ∧
  ∀ (p : Params) (r : Request), paramsLegal p = true → (romRead p.consts (encodeCode p.consts r.instr)).1 = true →
    processCommand p (encodeRequest p.consts r) =
      { response := some (sealBytes p.consts (romRead p.consts (encodeCode p.consts r.instr)).2),
        diag := .ok (encodeCode p.consts r.instr) }

/-! ### The function and the decoder -/

/-- 41_frame_validator R81: `process_command` answers exactly the buffers that decode, with the response of their command,
and rejects the others with the decoder's cause. -/
def Obligations.ProcessCommandAgreesWithTheDecoder : Prop :=
  ∀ (p : Params) (raw : List Byte), paramsLegal p = true →
    (∀ c, decodeFrame p raw = .error c →
      processCommand p raw = { response := none, diag := .rejected c }) ∧
    ∀ r, decodeFrame p raw = .ok r → processCommand p raw = respondTo p (encodeCode p.consts r.instr)

/-- 30_encoding R55, 41_frame_validator R82, R83, R85: no response for a buffer that is too short, does not begin with the
sync byte, or, where the variant verifies, does not end in the CRC of the rest. -/
def Obligations.MalformedBuffersGetNoResponse : Prop :=
  ∀ (p : Params) (raw : List Byte), paramsLegal p = true →
    (raw.length < minLen p ∨ raw[0]? ≠ some p.consts.sync ∨
      (verifyRxCrc p = true ∧ claimedOf raw ≠ some (computeCrc p.consts (coveredBytes raw)))) →
    ∃ c, processCommand p raw = { response := none, diag := .rejected c }

/-! ### The operations of the host -/

/-- 43_port_operations R116, where it is enabled: in RECV. Elsewhere it is held (`HeldOperationsHaveNoStep`). -/
def Obligations.RxByteAppendsOrMarksOverflow : Prop :=
  ∀ (s : State) (b : Byte) (rest : List HostOp), s.inputs = .rxByte b :: rest → s.phase = .recv →
    ((∀ m, s.cfg.rxMax = some m → s.rxlen < m) →
      ∃ buf, step s = .next { s with inputs := rest, rxbuf := buf, rxlen := s.rxlen + 1 } ∧
        buf.get? s.rxlen = some b ∧ ∀ i, i ≠ s.rxlen → buf.get? i = s.rxbuf.get? i) ∧
    (∀ m, s.cfg.rxMax = some m → m ≤ s.rxlen → step s = .next { s with inputs := rest, rxovf := true })

/-- 43_port_operations R117, where it is enabled: in RECV, with any number of bytes. Elsewhere it is held
(`HeldOperationsHaveNoStep`). -/
def Obligations.RxEndStartsTheTransaction : Prop :=
  ∀ (s : State) (rest : List HostOp), s.inputs = .rxEnd :: rest → s.phase = .recv →
    step s = .next { s with inputs := rest, phase := .proc, stage := .guard }

/-- 43_port_operations R119, where it is enabled: in SEND. Elsewhere it is held (`HeldOperationsHaveNoStep`). -/
def Obligations.TxPopDeliversInIndexOrder : Prop :=
  ∀ (s : State) (rest : List HostOp) (b : Byte), s.inputs = .txPop :: rest → s.phase = .send → s.txptr < s.txlen →
    s.txbuf.get? s.txptr = some b →
      step s =
        if s.txptr = s.txlen - 1 then
          .next { s with inputs := rest, sent := s.sent ++ [(b, true)], txlen := 0, txptr := 0, phase := .recv }
        else .next { s with inputs := rest, sent := s.sent ++ [(b, false)], txptr := s.txptr + 1 }

/-- 43_port_operations R122, 70_reset R150: reset is enabled in every phase and gives the idle state, without an event and
without a byte; the configuration is not affected; and the state agrees with the reset state on everything that a later
step can read. -/
def Obligations.ResetGivesTheIdleState : Prop :=
  ∀ (s : State) (rest : List HostOp), s.inputs = .reset :: rest →
    ∃ t, step s = .next t ∧ Idle t ∧ t.inputs = rest ∧ t.diags = s.diags ∧ t.sent = s.sent ∧ t.cfg = s.cfg ∧
      LiveAgree t { State.reset with cfg := s.cfg, inputs := rest }

/-- 10_state R13, R17: the overflow mark is sticky: only RX_BYTE on a full buffer sets it, and only the end of a
transaction or a reset clears it; every transaction ends with it clear. -/
def Obligations.OverflowMarkIsSticky : Prop :=
  ∀ s t : State, step s = .next t →
    (s.rxovf = false → t.rxovf = true →
      ∃ b rest m, s.inputs = .rxByte b :: rest ∧ s.phase = .recv ∧ s.cfg.rxMax = some m ∧ m ≤ s.rxlen) ∧
    (s.rxovf = true → t.rxovf = false →
      s.phase = .proc ∧ t.phase ≠ .proc ∨ ∃ rest, s.inputs = .reset :: rest) ∧
    (s.phase = .proc → t.phase ≠ .proc → t.rxovf = false)

/-- 43_port_operations R120, 60_exceptions R141: RX_BYTE and RX_END are held in PROC and SEND, TX_POP in RECV and PROC.
That a held operation stays at the head of the queue while the block goes on by itself (in PROC the next stage, in RECV and
SEND a step that changes nothing) is the model's choice (entry 7, DESIGN CHOICE); so is the same with an empty queue. -/
def Obligations.HeldOperationsHaveNoStep : Prop :=
  (∀ (s : State) (op : HostOp) (rest : List HostOp), s.inputs = op :: rest → s.phase = .send →
    (op = .rxEnd ∨ ∃ b, op = .rxByte b) → step s = .next s) ∧
  (∀ (s : State) (rest : List HostOp), s.inputs = .txPop :: rest → s.phase = .recv → step s = .next s) ∧
  (∀ (s : State) (op : HostOp) (rest : List HostOp), s.inputs = op :: rest → s.phase = .proc →
    (op = .rxEnd ∨ op = .txPop ∨ ∃ b, op = .rxByte b) → step s = runStage s) ∧
  (∀ (s : State) (op : HostOp) (rest : List HostOp), s.inputs = op :: rest →
    (s.phase ≠ .recv ∧ (op = .rxEnd ∨ ∃ b, op = .rxByte b) ∨ s.phase ≠ .send ∧ op = .txPop) → step s = advance s) ∧
  (∀ s : State, s.inputs = [] → s.phase ≠ .proc → step s = .next s)

/-- 70_reset R158 and entry 8 (the model's choice): the strap sets the variant of the next transaction, 0 for `V2_CRC` and
1 for `V1_EARLY`, and a change during a transaction has no meaning. -/
def Obligations.StrapSelectsTheNextVariant : Prop :=
  ∀ (s : State) (pin : Bool) (rest : List HostOp), s.inputs = .strap pin :: rest →
    (s.phase ≠ .proc →
      step s = .next { s with inputs := rest, cfg := { s.cfg with variant := if pin then .v1Early else .v2Crc } }) ∧
    (s.phase = .proc → step s = .refused .strapChangedInProc)

/-- 43_port_operations R115, R121: the output pins, the numbers of the diagnostic kinds, and what one cycle of input pins
asks for: in RECV a byte, an end mark, both with the byte first (92 D24), or nothing; in SEND one pop exactly when the host
is ready; in PROC nothing. That `rst` stands alone, whatever else is on the pins, is the model's choice (entry 20). -/
def Obligations.PinsFollowTheState : Prop :=
  (∀ (k : Nat) (s : State), (pinRxReady s = true ↔ s.phase = .recv) ∧ (pinTxValid s = true ↔ s.phase = .send) ∧
    (∀ b, s.phase = .send → s.txptr < s.txlen → s.txbuf.get? s.txptr = some b →
      pinTxData k s = b ∧ (pinTxLast s = true ↔ s.txptr = s.txlen - 1))) ∧
  (∀ (k : Nat) (c : Byte) (computed claimed : Word),
    (diagPins k (some (.ok c))).kind = 0 ∧ (diagPins k (some (.ok c))).code = c ∧
    (diagPins k (some (.unknown c))).kind = 1 ∧ (diagPins k (some (.unknown c))).code = c ∧
    (diagPins k (some (.rejected .short))).kind = 2 ∧
    (diagPins k (some (.rejected .sync))).kind = 3 ∧
    (diagPins k (some (.rejected (.crc computed claimed)))).kind = 4 ∧
    (diagPins k (some (.rejected (.crc computed claimed)))).computed = computed ∧
    (diagPins k (some (.rejected (.crc computed claimed)))).claimed = claimed ∧
    (diagPins k (some (.rejected .overflow))).kind = 5) ∧
  (∀ (k : Nat) (d : Option Diag), (diagPins k d).valid = d.isSome) ∧
  (∀ (b : Byte) (r : Bool),
    acceptedOps .recv ⟨false, b, true, false, r⟩ = [.rxByte b] ∧
    acceptedOps .recv ⟨false, b, false, true, r⟩ = [.rxEnd] ∧
    acceptedOps .recv ⟨false, b, true, true, r⟩ = [.rxByte b, .rxEnd] ∧
    acceptedOps .recv ⟨false, b, false, false, r⟩ = []) ∧
  (∀ (b : Byte) (v e : Bool),
    acceptedOps .send ⟨false, b, v, e, true⟩ = [.txPop] ∧ acceptedOps .send ⟨false, b, v, e, false⟩ = []) ∧
  (∀ (b : Byte) (v e r : Bool), acceptedOps .proc ⟨false, b, v, e, r⟩ = []) ∧
  (∀ (ph : Phase) (b : Byte) (v e r : Bool), acceptedOps ph ⟨true, b, v, e, r⟩ = [.reset])

/-! ### The sequencer -/

/-- 43_port_operations R118, 42_command_mux R95: in PROC, when the host asks for nothing or is held, a step is the stage; in
ST_SEAL it is `exec` of the command that the latched code decodes to. That the command is taken again from `CMD` in ST_SEAL
is entry 10 (DEDUCED). The second clause is about the host operation `wait`, which is the model's own (entry 5, DESIGN
CHOICE) and is taken from the queue first. -/
def Obligations.StepRunsTheDecodedCommand : Prop :=
  ∀ s : State, s.phase = .proc → s.stage = .sealing →
    (HostHeldOrSilent s → step s = exec (decodeCode s.cfg.consts s.cmd) s) ∧
    ∀ rest, s.inputs = .wait :: rest → step s = exec (decodeCode s.cfg.consts s.cmd) { s with inputs := rest }

/-- 43_port_operations R118, 30_encoding R53: when the inbound buffer decodes, four stages bring the transaction to ST_SEAL
with its code latched, and the step there is the decoded command. That each stage is one step is entry 9 (DEDUCED). -/
def Obligations.DecodedFrameReachesItsCommand : Prop :=
  ∀ (s : State) (raw : List Byte) (r : Request), s.phase = .proc → s.stage = .guard → s.rxovf = false →
    HoldsFrame s raw → paramsLegal s.cfg = true → HostHeldOrSilent s → decodeFrame s.cfg raw = .ok r →
    ∃ t, Host.Core.run Sys2Proof.core 4 s = .next t ∧ t.phase = .proc ∧ t.stage = .sealing ∧
      t.cmd = encodeCode s.cfg.consts r.instr ∧ t.inputs = s.inputs ∧ t.diags = s.diags ∧ step t = exec r.instr t

/-- 10_state R16: inside a transaction the stage moves to the next one in the order, and any end of the transaction sends
it to ST_IDLE; there is no backward transfer. -/
def Obligations.StageOnlyMovesForward : Prop :=
  ∀ s t : State, s.phase = .proc → step s = .next t →
    (t.phase = .proc → t.stage = stageAfter s.stage ∧ t.stage ≠ .idle) ∧ (t.phase ≠ .proc → t.stage = .idle)

/-- 43_port_operations R121, 70_reset R150: a transaction emits exactly one event, at its end; no other step emits one, and
a reset emits none. -/
def Obligations.OneEventPerTransaction : Prop :=
  ∀ s t : State, step s = .next t →
    ((∃ rest, s.inputs = .reset :: rest) → t.diags = s.diags) ∧
    ((∀ rest, s.inputs ≠ .reset :: rest) →
      (s.phase = .proc → t.phase ≠ .proc → ∃ d, t.diags = s.diags ++ [d]) ∧
      (s.phase ≠ .proc ∨ t.phase = .proc → t.diags = s.diags))

/-- 10_state R18, 20_memory R41, 70_reset R158: no step changes the configuration but a strap change outside PROC, and
that changes the variant only. -/
def Obligations.ConfigurationChangesOnlyByTheStrap : Prop :=
  ∀ s t : State, step s = .next t →
    t.cfg = s.cfg ∨
      ∃ pin rest, s.inputs = .strap pin :: rest ∧ s.phase ≠ .proc ∧
        t.cfg = { s.cfg with variant := if pin then .v1Early else .v2Crc }

/-! ### Invariants and whole-machine rules -/

/-- 10_state R22: the state after reset is the idle state. The other clauses are the model's choice, since 10_state section 8
leaves those values unspecified: the empty buffers are entry 4, the zeros in the latches and `IDX` are entry 2 (both DESIGN
CHOICE). -/
def Obligations.ResetStateIsIdle : Prop :=
  Idle State.reset ∧ State.reset.rxbuf = [] ∧ State.reset.txbuf = [] ∧
    (State.reset.acc = 0 ∧ State.reset.claimed = 0 ∧ State.reset.computed = 0 ∧ State.reset.cmd = 0 ∧
      State.reset.idx = 0)

/-- The invariant holds at reset. -/
def Obligations.InvariantHoldsAtReset : Prop :=
  Inv State.reset

/-- Every step from a state that meets the invariant keeps it (10_state R13 to R16, R22; 20_memory R37, R38). -/
def Obligations.EveryStepKeepsTheInvariant : Prop :=
  ∀ s t : State, Inv s → step s = .next t → Inv t

/-- 60_exceptions R139, 20_memory R37, R42: no input stops the block or takes it out of the invariant: from a state that
meets it every step has a next state that meets it, unless the strap changes during a transaction. -/
def Obligations.NoInputStopsTheBlock : Prop :=
  ∀ s : State, Inv s → StrapStable s → ∃ t, step s = .next t ∧ Inv t

/-- 43_port_operations R118: a transaction that nothing interrupts ends. That this takes at most five steps, one for each
stage, is entry 9 (DEDUCED). -/
def Obligations.EveryTransactionEnds : Prop :=
  ∀ s : State, Inv s → s.phase = .proc → HostHeldOrSilent s →
    ∃ k t, k ≤ 5 ∧ Host.Core.run Sys2Proof.core k s = .next t ∧ t.phase ≠ .proc

/-- 10_state R22: whenever the block comes back to RECV, it is in the idle state. -/
def Obligations.EveryReturnToRecvIsIdle : Prop :=
  ∀ s t : State, Inv s → step s = .next t → s.phase ≠ .recv → t.phase = .recv → Idle t

/-- 10_state R10, R12, R21: nothing outside the live registers is ever read: two states that agree on them take the same
step, show the same outputs, and agree again. -/
def Obligations.DeadRegistersAreNeverRead : Prop :=
  ∀ s t s' : State, LiveAgree s t → SameOutputs s t → step s = .next s' →
    ∃ t', step t = .next t' ∧ LiveAgree s' t' ∧ SameOutputs s' t'

/-- 43_port_operations R118: the stages of a transaction compute `process_command` of the bytes in the buffer, with the
overflow check in front. That this takes at most five steps, one for each stage, is entry 9 (DEDUCED). -/
def Obligations.TransactionComputesProcessCommand : Prop :=
  ∀ (s : State) (raw : List Byte), s.phase = .proc → s.stage = .guard → HoldsFrame s raw →
    paramsLegal s.cfg = true → HostHeldOrSilent s →
    ∃ k t, k ≤ 5 ∧ Host.Core.run Sys2Proof.core k s = .next t ∧
      t.cfg = s.cfg ∧ t.inputs = s.inputs ∧ t.sent = s.sent ∧
      ((processEvent s.cfg s.rxovf raw).response = none →
        Idle t ∧ t.diags = s.diags ++ [(processEvent s.cfg s.rxovf raw).diag]) ∧
      ∀ resp, (processEvent s.cfg s.rxovf raw).response = some resp →
        Answered s t resp (processEvent s.cfg s.rxovf raw).diag

/-- 43_port_operations R123, which the spec marks as derived: from any idle state, `SUBMIT(s); DRAIN` ends in the idle state
with one event more, and the host has popped exactly the bytes of `process_command(s)`, the last one marked, or nothing; a
buffer longer than `RX_MAX` gives nothing and `DG_OVERFLOW`. -/
def Obligations.SubmitAndDrainGivesProcessCommand : Prop :=
  ∀ (s : State) (raw : List Byte), Idle s → paramsLegal s.cfg = true →
    (rxFits s.cfg raw.length = true →
      s.inputs = submit raw ++ drain (processCommand s.cfg raw).response →
      ∃ k t, Host.Core.run Sys2Proof.core k s = .next t ∧ Idle t ∧ t.inputs = [] ∧ t.cfg = s.cfg ∧
        t.diags = s.diags ++ [(processCommand s.cfg raw).diag] ∧
        t.sent = s.sent ++ marked ((processCommand s.cfg raw).response.getD [])) ∧
    (rxFits s.cfg raw.length = false →
      s.inputs = submit raw →
      ∃ k t, Host.Core.run Sys2Proof.core k s = .next t ∧ Idle t ∧ t.inputs = [] ∧ t.cfg = s.cfg ∧
        t.diags = s.diags ++ [.rejected .overflow] ∧ t.sent = s.sent)
end

