-- ==== Sys2Proof/Laws/State.lean ====
section
/-! SUPPORT. One lemma per field per named update of State, each true by definition: no proof unfolds a record update. -/

namespace Sys2Proof.Laws

open Sys2Proof.Machine

variable (s : State)

/-! ### setAcc -/

@[simp] theorem setAcc_cfg (v : Word) : (setAcc v s).cfg = s.cfg := rfl
@[simp] theorem setAcc_acc (v : Word) : (setAcc v s).acc = v := rfl
@[simp] theorem setAcc_claimed (v : Word) : (setAcc v s).claimed = s.claimed := rfl
@[simp] theorem setAcc_computed (v : Word) : (setAcc v s).computed = s.computed := rfl
@[simp] theorem setAcc_cmd (v : Word) : (setAcc v s).cmd = s.cmd := rfl
@[simp] theorem setAcc_rxbuf (v : Word) : (setAcc v s).rxbuf = s.rxbuf := rfl
@[simp] theorem setAcc_rxlen (v : Word) : (setAcc v s).rxlen = s.rxlen := rfl
@[simp] theorem setAcc_rxovf (v : Word) : (setAcc v s).rxovf = s.rxovf := rfl
@[simp] theorem setAcc_txbuf (v : Word) : (setAcc v s).txbuf = s.txbuf := rfl
@[simp] theorem setAcc_txlen (v : Word) : (setAcc v s).txlen = s.txlen := rfl
@[simp] theorem setAcc_txptr (v : Word) : (setAcc v s).txptr = s.txptr := rfl
@[simp] theorem setAcc_phase (v : Word) : (setAcc v s).phase = s.phase := rfl
@[simp] theorem setAcc_stage (v : Word) : (setAcc v s).stage = s.stage := rfl
@[simp] theorem setAcc_idx (v : Word) : (setAcc v s).idx = s.idx := rfl
@[simp] theorem setAcc_inputs (v : Word) : (setAcc v s).inputs = s.inputs := rfl
@[simp] theorem setAcc_sent (v : Word) : (setAcc v s).sent = s.sent := rfl
@[simp] theorem setAcc_diags (v : Word) : (setAcc v s).diags = s.diags := rfl
@[simp] theorem setAcc_fresh (v : Word) : (setAcc v s).fresh = s.fresh := rfl

/-! ### setIdx -/

@[simp] theorem setIdx_cfg (v : Nat) : (setIdx v s).cfg = s.cfg := rfl
@[simp] theorem setIdx_acc (v : Nat) : (setIdx v s).acc = s.acc := rfl
@[simp] theorem setIdx_claimed (v : Nat) : (setIdx v s).claimed = s.claimed := rfl
@[simp] theorem setIdx_computed (v : Nat) : (setIdx v s).computed = s.computed := rfl
@[simp] theorem setIdx_cmd (v : Nat) : (setIdx v s).cmd = s.cmd := rfl
@[simp] theorem setIdx_rxbuf (v : Nat) : (setIdx v s).rxbuf = s.rxbuf := rfl
@[simp] theorem setIdx_rxlen (v : Nat) : (setIdx v s).rxlen = s.rxlen := rfl
@[simp] theorem setIdx_rxovf (v : Nat) : (setIdx v s).rxovf = s.rxovf := rfl
@[simp] theorem setIdx_txbuf (v : Nat) : (setIdx v s).txbuf = s.txbuf := rfl
@[simp] theorem setIdx_txlen (v : Nat) : (setIdx v s).txlen = s.txlen := rfl
@[simp] theorem setIdx_txptr (v : Nat) : (setIdx v s).txptr = s.txptr := rfl
@[simp] theorem setIdx_phase (v : Nat) : (setIdx v s).phase = s.phase := rfl
@[simp] theorem setIdx_stage (v : Nat) : (setIdx v s).stage = s.stage := rfl
@[simp] theorem setIdx_idx (v : Nat) : (setIdx v s).idx = v := rfl
@[simp] theorem setIdx_inputs (v : Nat) : (setIdx v s).inputs = s.inputs := rfl
@[simp] theorem setIdx_sent (v : Nat) : (setIdx v s).sent = s.sent := rfl
@[simp] theorem setIdx_diags (v : Nat) : (setIdx v s).diags = s.diags := rfl
@[simp] theorem setIdx_fresh (v : Nat) : (setIdx v s).fresh = s.fresh := rfl

/-! ### setClaimed -/

@[simp] theorem setClaimed_cfg (v : Word) : (setClaimed v s).cfg = s.cfg := rfl
@[simp] theorem setClaimed_acc (v : Word) : (setClaimed v s).acc = s.acc := rfl
@[simp] theorem setClaimed_claimed (v : Word) : (setClaimed v s).claimed = v := rfl
@[simp] theorem setClaimed_computed (v : Word) : (setClaimed v s).computed = s.computed := rfl
@[simp] theorem setClaimed_cmd (v : Word) : (setClaimed v s).cmd = s.cmd := rfl
@[simp] theorem setClaimed_rxbuf (v : Word) : (setClaimed v s).rxbuf = s.rxbuf := rfl
@[simp] theorem setClaimed_rxlen (v : Word) : (setClaimed v s).rxlen = s.rxlen := rfl
@[simp] theorem setClaimed_rxovf (v : Word) : (setClaimed v s).rxovf = s.rxovf := rfl
@[simp] theorem setClaimed_txbuf (v : Word) : (setClaimed v s).txbuf = s.txbuf := rfl
@[simp] theorem setClaimed_txlen (v : Word) : (setClaimed v s).txlen = s.txlen := rfl
@[simp] theorem setClaimed_txptr (v : Word) : (setClaimed v s).txptr = s.txptr := rfl
@[simp] theorem setClaimed_phase (v : Word) : (setClaimed v s).phase = s.phase := rfl
@[simp] theorem setClaimed_stage (v : Word) : (setClaimed v s).stage = s.stage := rfl
@[simp] theorem setClaimed_idx (v : Word) : (setClaimed v s).idx = s.idx := rfl
@[simp] theorem setClaimed_inputs (v : Word) : (setClaimed v s).inputs = s.inputs := rfl
@[simp] theorem setClaimed_sent (v : Word) : (setClaimed v s).sent = s.sent := rfl
@[simp] theorem setClaimed_diags (v : Word) : (setClaimed v s).diags = s.diags := rfl
@[simp] theorem setClaimed_fresh (v : Word) : (setClaimed v s).fresh = s.fresh := rfl

/-! ### setComputed -/

@[simp] theorem setComputed_cfg (v : Word) : (setComputed v s).cfg = s.cfg := rfl
@[simp] theorem setComputed_acc (v : Word) : (setComputed v s).acc = s.acc := rfl
@[simp] theorem setComputed_claimed (v : Word) : (setComputed v s).claimed = s.claimed := rfl
@[simp] theorem setComputed_computed (v : Word) : (setComputed v s).computed = v := rfl
@[simp] theorem setComputed_cmd (v : Word) : (setComputed v s).cmd = s.cmd := rfl
@[simp] theorem setComputed_rxbuf (v : Word) : (setComputed v s).rxbuf = s.rxbuf := rfl
@[simp] theorem setComputed_rxlen (v : Word) : (setComputed v s).rxlen = s.rxlen := rfl
@[simp] theorem setComputed_rxovf (v : Word) : (setComputed v s).rxovf = s.rxovf := rfl
@[simp] theorem setComputed_txbuf (v : Word) : (setComputed v s).txbuf = s.txbuf := rfl
@[simp] theorem setComputed_txlen (v : Word) : (setComputed v s).txlen = s.txlen := rfl
@[simp] theorem setComputed_txptr (v : Word) : (setComputed v s).txptr = s.txptr := rfl
@[simp] theorem setComputed_phase (v : Word) : (setComputed v s).phase = s.phase := rfl
@[simp] theorem setComputed_stage (v : Word) : (setComputed v s).stage = s.stage := rfl
@[simp] theorem setComputed_idx (v : Word) : (setComputed v s).idx = s.idx := rfl
@[simp] theorem setComputed_inputs (v : Word) : (setComputed v s).inputs = s.inputs := rfl
@[simp] theorem setComputed_sent (v : Word) : (setComputed v s).sent = s.sent := rfl
@[simp] theorem setComputed_diags (v : Word) : (setComputed v s).diags = s.diags := rfl
@[simp] theorem setComputed_fresh (v : Word) : (setComputed v s).fresh = s.fresh := rfl

/-! ### setCmd -/

@[simp] theorem setCmd_cfg (v : Byte) : (setCmd v s).cfg = s.cfg := rfl
@[simp] theorem setCmd_acc (v : Byte) : (setCmd v s).acc = s.acc := rfl
@[simp] theorem setCmd_claimed (v : Byte) : (setCmd v s).claimed = s.claimed := rfl
@[simp] theorem setCmd_computed (v : Byte) : (setCmd v s).computed = s.computed := rfl
@[simp] theorem setCmd_cmd (v : Byte) : (setCmd v s).cmd = v := rfl
@[simp] theorem setCmd_rxbuf (v : Byte) : (setCmd v s).rxbuf = s.rxbuf := rfl
@[simp] theorem setCmd_rxlen (v : Byte) : (setCmd v s).rxlen = s.rxlen := rfl
@[simp] theorem setCmd_rxovf (v : Byte) : (setCmd v s).rxovf = s.rxovf := rfl
@[simp] theorem setCmd_txbuf (v : Byte) : (setCmd v s).txbuf = s.txbuf := rfl
@[simp] theorem setCmd_txlen (v : Byte) : (setCmd v s).txlen = s.txlen := rfl
@[simp] theorem setCmd_txptr (v : Byte) : (setCmd v s).txptr = s.txptr := rfl
@[simp] theorem setCmd_phase (v : Byte) : (setCmd v s).phase = s.phase := rfl
@[simp] theorem setCmd_stage (v : Byte) : (setCmd v s).stage = s.stage := rfl
@[simp] theorem setCmd_idx (v : Byte) : (setCmd v s).idx = s.idx := rfl
@[simp] theorem setCmd_inputs (v : Byte) : (setCmd v s).inputs = s.inputs := rfl
@[simp] theorem setCmd_sent (v : Byte) : (setCmd v s).sent = s.sent := rfl
@[simp] theorem setCmd_diags (v : Byte) : (setCmd v s).diags = s.diags := rfl
@[simp] theorem setCmd_fresh (v : Byte) : (setCmd v s).fresh = s.fresh := rfl

/-! ### setStage -/

@[simp] theorem setStage_cfg (v : Stage) : (setStage v s).cfg = s.cfg := rfl
@[simp] theorem setStage_acc (v : Stage) : (setStage v s).acc = s.acc := rfl
@[simp] theorem setStage_claimed (v : Stage) : (setStage v s).claimed = s.claimed := rfl
@[simp] theorem setStage_computed (v : Stage) : (setStage v s).computed = s.computed := rfl
@[simp] theorem setStage_cmd (v : Stage) : (setStage v s).cmd = s.cmd := rfl
@[simp] theorem setStage_rxbuf (v : Stage) : (setStage v s).rxbuf = s.rxbuf := rfl
@[simp] theorem setStage_rxlen (v : Stage) : (setStage v s).rxlen = s.rxlen := rfl
@[simp] theorem setStage_rxovf (v : Stage) : (setStage v s).rxovf = s.rxovf := rfl
@[simp] theorem setStage_txbuf (v : Stage) : (setStage v s).txbuf = s.txbuf := rfl
@[simp] theorem setStage_txlen (v : Stage) : (setStage v s).txlen = s.txlen := rfl
@[simp] theorem setStage_txptr (v : Stage) : (setStage v s).txptr = s.txptr := rfl
@[simp] theorem setStage_phase (v : Stage) : (setStage v s).phase = s.phase := rfl
@[simp] theorem setStage_stage (v : Stage) : (setStage v s).stage = v := rfl
@[simp] theorem setStage_idx (v : Stage) : (setStage v s).idx = s.idx := rfl
@[simp] theorem setStage_inputs (v : Stage) : (setStage v s).inputs = s.inputs := rfl
@[simp] theorem setStage_sent (v : Stage) : (setStage v s).sent = s.sent := rfl
@[simp] theorem setStage_diags (v : Stage) : (setStage v s).diags = s.diags := rfl
@[simp] theorem setStage_fresh (v : Stage) : (setStage v s).fresh = s.fresh := rfl

/-! ### setRxbuf -/

@[simp] theorem setRxbuf_cfg (m : Memory) : (setRxbuf m s).cfg = s.cfg := rfl
@[simp] theorem setRxbuf_acc (m : Memory) : (setRxbuf m s).acc = s.acc := rfl
@[simp] theorem setRxbuf_claimed (m : Memory) : (setRxbuf m s).claimed = s.claimed := rfl
@[simp] theorem setRxbuf_computed (m : Memory) : (setRxbuf m s).computed = s.computed := rfl
@[simp] theorem setRxbuf_cmd (m : Memory) : (setRxbuf m s).cmd = s.cmd := rfl
@[simp] theorem setRxbuf_rxbuf (m : Memory) : (setRxbuf m s).rxbuf = m := rfl
@[simp] theorem setRxbuf_rxlen (m : Memory) : (setRxbuf m s).rxlen = s.rxlen := rfl
@[simp] theorem setRxbuf_rxovf (m : Memory) : (setRxbuf m s).rxovf = s.rxovf := rfl
@[simp] theorem setRxbuf_txbuf (m : Memory) : (setRxbuf m s).txbuf = s.txbuf := rfl
@[simp] theorem setRxbuf_txlen (m : Memory) : (setRxbuf m s).txlen = s.txlen := rfl
@[simp] theorem setRxbuf_txptr (m : Memory) : (setRxbuf m s).txptr = s.txptr := rfl
@[simp] theorem setRxbuf_phase (m : Memory) : (setRxbuf m s).phase = s.phase := rfl
@[simp] theorem setRxbuf_stage (m : Memory) : (setRxbuf m s).stage = s.stage := rfl
@[simp] theorem setRxbuf_idx (m : Memory) : (setRxbuf m s).idx = s.idx := rfl
@[simp] theorem setRxbuf_inputs (m : Memory) : (setRxbuf m s).inputs = s.inputs := rfl
@[simp] theorem setRxbuf_sent (m : Memory) : (setRxbuf m s).sent = s.sent := rfl
@[simp] theorem setRxbuf_diags (m : Memory) : (setRxbuf m s).diags = s.diags := rfl
@[simp] theorem setRxbuf_fresh (m : Memory) : (setRxbuf m s).fresh = s.fresh := rfl

/-! ### setTxbuf -/

@[simp] theorem setTxbuf_cfg (m : Memory) : (setTxbuf m s).cfg = s.cfg := rfl
@[simp] theorem setTxbuf_acc (m : Memory) : (setTxbuf m s).acc = s.acc := rfl
@[simp] theorem setTxbuf_claimed (m : Memory) : (setTxbuf m s).claimed = s.claimed := rfl
@[simp] theorem setTxbuf_computed (m : Memory) : (setTxbuf m s).computed = s.computed := rfl
@[simp] theorem setTxbuf_cmd (m : Memory) : (setTxbuf m s).cmd = s.cmd := rfl
@[simp] theorem setTxbuf_rxbuf (m : Memory) : (setTxbuf m s).rxbuf = s.rxbuf := rfl
@[simp] theorem setTxbuf_rxlen (m : Memory) : (setTxbuf m s).rxlen = s.rxlen := rfl
@[simp] theorem setTxbuf_rxovf (m : Memory) : (setTxbuf m s).rxovf = s.rxovf := rfl
@[simp] theorem setTxbuf_txbuf (m : Memory) : (setTxbuf m s).txbuf = m := rfl
@[simp] theorem setTxbuf_txlen (m : Memory) : (setTxbuf m s).txlen = s.txlen := rfl
@[simp] theorem setTxbuf_txptr (m : Memory) : (setTxbuf m s).txptr = s.txptr := rfl
@[simp] theorem setTxbuf_phase (m : Memory) : (setTxbuf m s).phase = s.phase := rfl
@[simp] theorem setTxbuf_stage (m : Memory) : (setTxbuf m s).stage = s.stage := rfl
@[simp] theorem setTxbuf_idx (m : Memory) : (setTxbuf m s).idx = s.idx := rfl
@[simp] theorem setTxbuf_inputs (m : Memory) : (setTxbuf m s).inputs = s.inputs := rfl
@[simp] theorem setTxbuf_sent (m : Memory) : (setTxbuf m s).sent = s.sent := rfl
@[simp] theorem setTxbuf_diags (m : Memory) : (setTxbuf m s).diags = s.diags := rfl
@[simp] theorem setTxbuf_fresh (m : Memory) : (setTxbuf m s).fresh = s.fresh := rfl

/-! ### setInputs -/

@[simp] theorem setInputs_cfg (l : List HostOp) : (setInputs l s).cfg = s.cfg := rfl
@[simp] theorem setInputs_acc (l : List HostOp) : (setInputs l s).acc = s.acc := rfl
@[simp] theorem setInputs_claimed (l : List HostOp) : (setInputs l s).claimed = s.claimed := rfl
@[simp] theorem setInputs_computed (l : List HostOp) : (setInputs l s).computed = s.computed := rfl
@[simp] theorem setInputs_cmd (l : List HostOp) : (setInputs l s).cmd = s.cmd := rfl
@[simp] theorem setInputs_rxbuf (l : List HostOp) : (setInputs l s).rxbuf = s.rxbuf := rfl
@[simp] theorem setInputs_rxlen (l : List HostOp) : (setInputs l s).rxlen = s.rxlen := rfl
@[simp] theorem setInputs_rxovf (l : List HostOp) : (setInputs l s).rxovf = s.rxovf := rfl
@[simp] theorem setInputs_txbuf (l : List HostOp) : (setInputs l s).txbuf = s.txbuf := rfl
@[simp] theorem setInputs_txlen (l : List HostOp) : (setInputs l s).txlen = s.txlen := rfl
@[simp] theorem setInputs_txptr (l : List HostOp) : (setInputs l s).txptr = s.txptr := rfl
@[simp] theorem setInputs_phase (l : List HostOp) : (setInputs l s).phase = s.phase := rfl
@[simp] theorem setInputs_stage (l : List HostOp) : (setInputs l s).stage = s.stage := rfl
@[simp] theorem setInputs_idx (l : List HostOp) : (setInputs l s).idx = s.idx := rfl
@[simp] theorem setInputs_inputs (l : List HostOp) : (setInputs l s).inputs = l := rfl
@[simp] theorem setInputs_sent (l : List HostOp) : (setInputs l s).sent = s.sent := rfl
@[simp] theorem setInputs_diags (l : List HostOp) : (setInputs l s).diags = s.diags := rfl
@[simp] theorem setInputs_fresh (l : List HostOp) : (setInputs l s).fresh = s.fresh := rfl

/-! ### reject -/

@[simp] theorem reject_cfg (c : Cause) : (reject c s).cfg = s.cfg := rfl
@[simp] theorem reject_acc (c : Cause) : (reject c s).acc = s.acc := rfl
@[simp] theorem reject_claimed (c : Cause) : (reject c s).claimed = s.claimed := rfl
@[simp] theorem reject_computed (c : Cause) : (reject c s).computed = s.computed := rfl
@[simp] theorem reject_cmd (c : Cause) : (reject c s).cmd = s.cmd := rfl
@[simp] theorem reject_rxbuf (c : Cause) : (reject c s).rxbuf = s.rxbuf := rfl
@[simp] theorem reject_rxlen (c : Cause) : (reject c s).rxlen = 0 := rfl
@[simp] theorem reject_rxovf (c : Cause) : (reject c s).rxovf = false := rfl
@[simp] theorem reject_txbuf (c : Cause) : (reject c s).txbuf = s.txbuf := rfl
@[simp] theorem reject_txlen (c : Cause) : (reject c s).txlen = 0 := rfl
@[simp] theorem reject_txptr (c : Cause) : (reject c s).txptr = 0 := rfl
@[simp] theorem reject_phase (c : Cause) : (reject c s).phase = .recv := rfl
@[simp] theorem reject_stage (c : Cause) : (reject c s).stage = .idle := rfl
@[simp] theorem reject_idx (c : Cause) : (reject c s).idx = s.idx := rfl
@[simp] theorem reject_inputs (c : Cause) : (reject c s).inputs = s.inputs := rfl
@[simp] theorem reject_sent (c : Cause) : (reject c s).sent = s.sent := rfl
@[simp] theorem reject_diags (c : Cause) : (reject c s).diags = s.diags ++ [.rejected c] := rfl
@[simp] theorem reject_fresh (c : Cause) : (reject c s).fresh = s.fresh := rfl

/-! ### finishAnswer -/

@[simp] theorem finishAnswer_cfg (n : Nat) (d : Diag) : (finishAnswer n d s).cfg = s.cfg := rfl
@[simp] theorem finishAnswer_acc (n : Nat) (d : Diag) : (finishAnswer n d s).acc = s.acc := rfl
@[simp] theorem finishAnswer_claimed (n : Nat) (d : Diag) : (finishAnswer n d s).claimed = s.claimed := rfl
@[simp] theorem finishAnswer_computed (n : Nat) (d : Diag) : (finishAnswer n d s).computed = s.computed := rfl
@[simp] theorem finishAnswer_cmd (n : Nat) (d : Diag) : (finishAnswer n d s).cmd = s.cmd := rfl
@[simp] theorem finishAnswer_rxbuf (n : Nat) (d : Diag) : (finishAnswer n d s).rxbuf = s.rxbuf := rfl
@[simp] theorem finishAnswer_rxlen (n : Nat) (d : Diag) : (finishAnswer n d s).rxlen = 0 := rfl
@[simp] theorem finishAnswer_rxovf (n : Nat) (d : Diag) : (finishAnswer n d s).rxovf = false := rfl
@[simp] theorem finishAnswer_txbuf (n : Nat) (d : Diag) : (finishAnswer n d s).txbuf = s.txbuf := rfl
@[simp] theorem finishAnswer_txlen (n : Nat) (d : Diag) : (finishAnswer n d s).txlen = n := rfl
@[simp] theorem finishAnswer_txptr (n : Nat) (d : Diag) : (finishAnswer n d s).txptr = 0 := rfl
@[simp] theorem finishAnswer_phase (n : Nat) (d : Diag) : (finishAnswer n d s).phase = .send := rfl
@[simp] theorem finishAnswer_stage (n : Nat) (d : Diag) : (finishAnswer n d s).stage = .idle := rfl
@[simp] theorem finishAnswer_idx (n : Nat) (d : Diag) : (finishAnswer n d s).idx = s.idx := rfl
@[simp] theorem finishAnswer_inputs (n : Nat) (d : Diag) : (finishAnswer n d s).inputs = s.inputs := rfl
@[simp] theorem finishAnswer_sent (n : Nat) (d : Diag) : (finishAnswer n d s).sent = s.sent := rfl
@[simp] theorem finishAnswer_diags (n : Nat) (d : Diag) : (finishAnswer n d s).diags = s.diags ++ [d] := rfl
@[simp] theorem finishAnswer_fresh (n : Nat) (d : Diag) : (finishAnswer n d s).fresh = s.fresh := rfl

/-! ### resetBlock -/

@[simp] theorem resetBlock_cfg : (resetBlock s).cfg = s.cfg := rfl
@[simp] theorem resetBlock_acc : (resetBlock s).acc = Config.freeWord s.fresh := rfl
@[simp] theorem resetBlock_claimed : (resetBlock s).claimed = Config.freeWord (s.fresh + 1) := rfl
@[simp] theorem resetBlock_computed : (resetBlock s).computed = Config.freeWord (s.fresh + 2) := rfl
@[simp] theorem resetBlock_cmd : (resetBlock s).cmd = Config.freeByte s.fresh := rfl
@[simp] theorem resetBlock_rxbuf : (resetBlock s).rxbuf = [] := rfl
@[simp] theorem resetBlock_rxlen : (resetBlock s).rxlen = 0 := rfl
@[simp] theorem resetBlock_rxovf : (resetBlock s).rxovf = false := rfl
@[simp] theorem resetBlock_txbuf : (resetBlock s).txbuf = [] := rfl
@[simp] theorem resetBlock_txlen : (resetBlock s).txlen = 0 := rfl
@[simp] theorem resetBlock_txptr : (resetBlock s).txptr = 0 := rfl
@[simp] theorem resetBlock_phase : (resetBlock s).phase = .recv := rfl
@[simp] theorem resetBlock_stage : (resetBlock s).stage = .idle := rfl
@[simp] theorem resetBlock_idx : (resetBlock s).idx = cutToIndexWidth s.cfg (Config.freeIndex s.fresh) := rfl
@[simp] theorem resetBlock_inputs : (resetBlock s).inputs = s.inputs := rfl
@[simp] theorem resetBlock_sent : (resetBlock s).sent = s.sent := rfl
@[simp] theorem resetBlock_diags : (resetBlock s).diags = s.diags := rfl
@[simp] theorem resetBlock_fresh : (resetBlock s).fresh = s.fresh + 3 := rfl

end Sys2Proof.Laws
end

