-- ==== Sys2Proof/Laws/Crc.lean ====
section
/-! SUPPORT. The CRC engine: the micro-operations on `ACC` are the functions of the accumulator value, the loops are
`accBytes`, the shift is linear and one-to-one, and the two bytes of a word put it together again. -/

namespace Sys2Proof.Laws

open Sys2Proof.Machine

variable (k : Constants)

/-- `CRC_FINAL` with the given constants is the bitwise complement (40_crc_engine R70). -/
theorem accFinal_eq_not (a : Word) : accFinal constants a = ~~~a := by
  show a ^^^ BitVec.allOnes 16 = ~~~a
  exact BitVec.xor_allOnes

@[simp] theorem accBytes_nil (a : Word) : accBytes k a [] = a := rfl
@[simp] theorem accBytes_cons (a : Word) (b : Byte) (bs : List Byte) :
    accBytes k a (b :: bs) = accBytes k (accByte k a b) bs := rfl

/-- Feeding a sequence in two parts (40_crc_engine R76). -/
theorem accBytes_append (a : Word) (s t : List Byte) : accBytes k a (s ++ t) = accBytes k (accBytes k a s) t := by
  induction s generalizing a with
  | nil => rfl
  | cons b bs ih => simp [ih]

/-- `CRC_SHIFT` is linear (40_crc_engine R68). -/
theorem accShift_xor (a b : Word) : accShift k (a ^^^ b) = accShift k a ^^^ accShift k b := by
  unfold accShift
  rw [BitVec.getLsbD_xor, BitVec.ushiftRight_xor_distrib]
  cases a.getLsbD 0 <;> cases b.getLsbD 0
  · simp
  · simp [BitVec.xor_assoc]
  · simp only [Bool.xor_false, ↓reduceIte, Bool.false_eq_true]
    rw [BitVec.xor_assoc, BitVec.xor_comm (b >>> 1), BitVec.xor_assoc]
  · simp only [bne_self_eq_false, Bool.false_eq_true, ↓reduceIte]
    rw [BitVec.xor_assoc, BitVec.xor_comm (b >>> 1), ← BitVec.xor_assoc k.polyReflected]
    simp

theorem accShifts_xor (n : Nat) (a b : Word) :
    accShifts k n (a ^^^ b) = accShifts k n a ^^^ accShifts k n b := by
  induction n generalizing a b with
  | zero => rfl
  | succ n ih => simp only [accShifts, accShift_xor, ih]

variable {k}

/-- Where bit 15 of the polynomial constant is set, only zero shifts to zero: that bit tells whether the constant was
XORed in. -/
theorem accShift_eq_zero (hk : k.polyReflected.getLsbD 15 = true) {a : Word} (h : accShift k a = 0) : a = 0 := by
  unfold accShift at h
  split at h
  · have := congrArg (fun w : Word => w.getLsbD 15) h
    rw [BitVec.getLsbD_xor, hk] at this
    simp at this
  · rename_i h0
    ext i hi
    rcases i with _ | i
    · simpa using h0
    · have := congrArg (fun w : Word => w.getLsbD i) h
      simp only [BitVec.getLsbD_ushiftRight, Nat.add_comm 1 i] at this
      simpa [BitVec.getLsbD_eq_getElem hi] using this

theorem accShifts_eq_zero (hk : k.polyReflected.getLsbD 15 = true) {n : Nat} {a : Word} (h : accShifts k n a = 0) :
    a = 0 := by
  induction n generalizing a with
  | zero => exact h
  | succ n ih => exact accShift_eq_zero hk (ih h)

/-- The shifts are then one-to-one. -/
theorem accShifts_inj (hk : k.polyReflected.getLsbD 15 = true) {n : Nat} {a b : Word}
    (h : accShifts k n a = accShifts k n b) : a = b := by
  have h0 : accShifts k n (a ^^^ b) = 0 := by rw [accShifts_xor, h]; exact BitVec.xor_self
  exact BitVec.xor_eq_zero_iff.mp (accShifts_eq_zero hk h0)

theorem crcShifts_eq (n : Nat) (s : State) : crcShifts n s = setAcc (accShifts s.cfg.consts n s.acc) s := by
  induction n generalizing s with
  | zero => rfl
  | succ n ih => rw [crcShifts, ih]; rfl

/-- `CRC_BYTE` writes `ACC` and nothing else (40_crc_engine R69). -/
@[simp] theorem crcByte_eq (b : Byte) (s : State) : crcByte b s = setAcc (accByte s.cfg.consts s.acc b) s := by
  rw [crcByte, crcShifts_eq]; rfl

@[simp] theorem crcInit_eq (s : State) : crcInit s = setAcc s.cfg.consts.crcInit s := rfl

/-- The loop over a template writes `ACC` and `IDX` and nothing else. -/
theorem sealLoop_eq (bs : List Byte) (s : State) :
    sealLoop bs s = setIdx (s.idx + bs.length) (setAcc (accBytes s.cfg.consts s.acc bs) s) := by
  induction bs generalizing s with
  | nil => rfl
  | cons b bs ih =>
    rw [sealLoop, ih]
    simp [setIdx, setAcc, Nat.add_comm, Nat.add_assoc]

@[simp] theorem crcField_length (c : Word) : (crcField c).length = 2 := rfl

@[simp] theorem sealBytes_length (p : List Byte) : (sealBytes k p).length = p.length + 2 := by
  simp [sealBytes]

/-- The two bytes of a word put it together again (20_memory R32, R33). -/
@[simp] theorem joinWord_lo_hi (c : Word) : joinWord (lo c) (hi c) = c := by
  apply BitVec.eq_of_getLsbD_eq
  intro i hi'
  simp only [joinWord, lo, hi, BitVec.getLsbD_or, BitVec.getLsbD_setWidth, BitVec.getLsbD_shiftLeft,
    BitVec.getLsbD_ushiftRight]
  by_cases h8 : i < 8
  · simp [h8, hi']
  · have : 8 + (i - 8) = i := by omega
    have h2 : i - 8 < 8 := by omega
    simp [h8, hi', this, h2]
    omega

/-- The low byte of two joined bytes (20_memory R33). -/
@[simp] theorem lo_joinWord (l h : Byte) : lo (joinWord l h) = l := by
  apply BitVec.eq_of_getLsbD_eq
  intro i hi
  simp [lo, joinWord, hi]

/-- The high byte of two joined bytes (20_memory R33). -/
@[simp] theorem hi_joinWord (l h : Byte) : Machine.hi (joinWord l h) = h := by
  apply BitVec.eq_of_getLsbD_eq
  intro i hi
  have h16 : i < 16 := by omega
  have h24 : 8 + i < 16 := by omega
  simp [Machine.hi, joinWord, hi, h16, h24]

/-- The CRC field of two joined bytes is those two bytes. -/
@[simp] theorem crcField_joinWord (l h : Byte) : crcField (joinWord l h) = [l, h] := by
  simp [crcField]

end Sys2Proof.Laws
end

