-- ==== Sys2Proof/Laws/Decode.lean ====
section
/-! SUPPORT. The opcode table and the frame: each code selects one command, and the fields of a sealed frame are where the
format puts them. -/

namespace Sys2Proof.Laws

open Sys2Proof.Machine

/-- A fact about every byte, by the 256 cases. -/
theorem forall_byte {P : Byte → Prop} (h : ∀ n : Fin 256, P (BitVec.ofFin n)) (c : Byte) : P c :=
  h c.toFin

/-- Exactly one row of the opcode table matches a code (30_encoding R53). -/
theorem opTable_one_match (c : Byte) : (opTable.filter (fun r => opRowMatches r c)).length = 1 :=
  forall_byte (P := fun c => (opTable.filter (fun r => opRowMatches r c)).length = 1) (by decide +kernel) c

/-- That row has the mnemonic of the command which the given constants decode the code to. -/
theorem opTable_mnemonic (c : Byte) :
    (opTable.filter (fun r => opRowMatches r c)).map (·.mnemonic) = [mnemonicOf (decodeCode constants c)] :=
  forall_byte (P := fun c => (opTable.filter (fun r => opRowMatches r c)).map (·.mnemonic) =
    [mnemonicOf (decodeCode constants c)]) (by decide +kernel) c

/-- With the given constants (30_encoding R50). -/
theorem decodeCode_eq (c : Byte) :
    decodeCode constants c =
      if c = 0x01 then .queryId else if c = 0x03 then .abortTx else if c = 0x06 then .applyCfg
      else if c = 0x00 then .sendData else if c = 0x04 then .queryBurst else .unknown c := rfl

/-- The ROM as a chain of comparisons (10_state R19). -/
theorem romRead_chain (k : Constants) (c : Byte) :
    romRead k c =
      if c = k.respTable.queryId.code then (true, k.respTable.queryId.template)
      else if c = k.respTable.abortTx.code then (true, k.respTable.abortTx.template)
      else if c = k.respTable.applyCfg.code then (true, k.respTable.applyCfg.template)
      else if c = k.respTable.sendData.code then (true, k.respTable.sendData.template)
      else if c = k.respTable.queryBurst.code then (true, k.respTable.queryBurst.template)
      else (false, k.fallback) := by
  simp only [romRead, tableRows]
  split_ifs with h1 h2 h3 h4 h5
  · simp [← h1]
  · simp [← h2, Ne.symm h1]
  · simp [← h3, Ne.symm h1, Ne.symm h2]
  · simp [← h4, Ne.symm h1, Ne.symm h2, Ne.symm h3]
  · simp [← h5, Ne.symm h1, Ne.symm h2, Ne.symm h3, Ne.symm h4]
  · simp [Ne.symm h1, Ne.symm h2, Ne.symm h3, Ne.symm h4, Ne.symm h5]

/-- With the given constants. -/
theorem romRead_eq (c : Byte) :
    romRead constants c =
      if c = 0x01 then (true, [0xAA, 0x09, 0x01, 0x00, 0x23, 0x18, 0x60])
      else if c = 0x03 then (true, [0xAA, 0x05, 0x03])
      else if c = 0x06 then (true, [0xAA, 0x05, 0x06])
      else if c = 0x00 then (true, [0xAA, 0x05, 0x00])
      else if c = 0x04 then (true, [0xAA, 0x06, 0x04, 0x00])
      else (false, [0xAA, 0xFF, 0xFF]) := romRead_chain constants c

/-- Every code decodes to a well-formed command whose code it is. -/
theorem decodeCode_wf (k : Constants) (c : Byte) :
    (decodeCode k c).wf k = true ∧ encodeCode k (decodeCode k c) = c := by
  unfold decodeCode
  split_ifs with h1 h2 h3 h4 h5
  · exact ⟨rfl, h1.symm⟩
  · exact ⟨rfl, h2.symm⟩
  · exact ⟨rfl, h3.symm⟩
  · exact ⟨rfl, h4.symm⟩
  · exact ⟨rfl, h5.symm⟩
  · exact ⟨by simp [Instr.wf, romRead_chain, h1, h2, h3, h4, h5], rfl⟩

/-- The parts of a sealed sequence. -/
theorem coveredBytes_sealBytes (k : Constants) (p : List Byte) : coveredBytes (sealBytes k p) = p := by
  simp [coveredBytes, sealBytes, crcLen, crcField]

theorem claimedOf_sealBytes (k : Constants) (p : List Byte) : claimedOf (sealBytes k p) = some (computeCrc k p) := by
  simp [claimedOf, sealBytes, crcLen, crcField]

/-! ### Legal constants -/

/-- What legal constants say, as propositions. -/
theorem constantsLegal_iff (k : Constants) :
    constantsLegal k = true ↔
      k.cmdIndex = 2 ∧ 2 ≤ k.minLenV1 ∧ k.minLenV1 ≤ 5 ∧ k.txMax ≤ 15 ∧ ((tableRows k).map (·.code)).Nodup ∧
        ∀ t ∈ templates k, 3 ≤ t.length ∧ t.length + 2 ≤ k.txMax := by
  unfold constantsLegal templateFits crcLen
  simp [and_assoc]

theorem constants_legal : constantsLegal constants = true := by decide

/-- What legal parameters say, as propositions. -/
theorem paramsLegal_iff (p : Params) :
    paramsLegal p = true ↔
      constantsLegal p.consts = true ∧ 2 ≤ p.minLenV2 ∧ p.minLenV2 ≤ 5 ∧ (∀ m, p.rxMax = some m → 5 ≤ m) ∧
        ∀ t ∈ templates p.consts, fitsIndexWidth p t.length = true := by
  unfold paramsLegal
  cases p.rxMax <;> simp [and_assoc]

/-- Under legal parameters the least length is 2 to 5 (41_frame_validator R82). -/
theorem minLen_legal {p : Params} (h : paramsLegal p = true) : 2 ≤ minLen p ∧ minLen p ≤ 5 := by
  obtain ⟨hk, h2, h5, -⟩ := (paramsLegal_iff p).1 h
  obtain ⟨-, h2', h5', -⟩ := (constantsLegal_iff _).1 hk
  unfold minLen
  cases p.variant
  · exact ⟨h2, h5⟩
  · exact ⟨h2', h5'⟩

/-- Every ROM entry is one of the templates (10_state R19). -/
theorem romRead_mem (k : Constants) (c : Byte) : (romRead k c).2 ∈ templates k := by
  unfold romRead templates
  split
  · rename_i r hr
    exact List.mem_append_left _ (List.mem_map_of_mem (List.mem_of_find?_eq_some hr))
  · simp

/-- Every template of legal constants has 3 bytes or more and fits `TXBUF` sealed (20_memory R38). -/
theorem template_fits {k : Constants} (h : constantsLegal k = true) {t : List Byte} (ht : t ∈ templates k) :
    3 ≤ t.length ∧ t.length + 2 ≤ k.txMax :=
  ((constantsLegal_iff k).1 h).2.2.2.2.2 t ht

end Sys2Proof.Laws
end

