-- ==== Sys2Proof/Laws/Memory.lean ====
section
/-! SUPPORT. The laws of a byte space: read after write, a write leaves every other index alone, every operation keeps
the canonical form. -/

namespace Sys2Proof.Laws

open Sys2Proof.Machine

@[simp] theorem get_nil (i : Nat) : Memory.get? [] i = none := rfl

/-- One write, read anywhere. -/
theorem get_set (m : Memory) (i j : Nat) (v : Byte) :
    (m.set i v).get? j = if i = j then some v else m.get? j := by
  induction m with
  | nil => simp [Memory.set, Memory.get?]
  | cons c m ih =>
    obtain ⟨a, b⟩ := c
    by_cases hlt : i < a
    · simp [Memory.set, Memory.get?, hlt]
    · by_cases heq : i = a
      · subst heq
        by_cases hj : i = j <;> simp [Memory.set, Memory.get?, hj]
      · by_cases ha : a = j
        · subst ha
          simp [Memory.set, Memory.get?, hlt, heq]
        · simp [Memory.set, Memory.get?, hlt, heq, ha, ih]

@[simp] theorem get_set_same (m : Memory) (i : Nat) (v : Byte) : (m.set i v).get? i = some v := by
  simp [get_set]

theorem get_set_other (m : Memory) {i j : Nat} (v : Byte) (h : i ≠ j) : (m.set i v).get? j = m.get? j := by
  simp [get_set, h]

/-- Strictly rising indices from a bound are rising from any lower bound. -/
theorem risingFrom_mono {m : Memory} {n k : Nat} (hnk : n ≤ k) (h : Memory.risingFrom k m = true) :
    Memory.risingFrom n m = true := by
  cases m with
  | nil => rfl
  | cons c m =>
    obtain ⟨a, b⟩ := c
    simp only [Memory.risingFrom, Bool.and_eq_true, decide_eq_true_eq] at h ⊢
    exact ⟨by omega, h.2⟩

theorem set_keeps_risingFrom {m : Memory} {n i : Nat} (v : Byte) (hni : n ≤ i) (h : Memory.risingFrom n m = true) :
    Memory.risingFrom n (m.set i v) = true := by
  induction m generalizing n with
  | nil => simp [Memory.set, Memory.risingFrom, hni]
  | cons c m ih =>
    obtain ⟨a, b⟩ := c
    simp only [Memory.risingFrom, Bool.and_eq_true, decide_eq_true_eq] at h
    by_cases hlt : i < a
    · simp only [Memory.set, hlt, ↓reduceIte, Memory.risingFrom, Bool.and_eq_true, decide_eq_true_eq]
      exact ⟨hni, by omega, h.2⟩
    · by_cases heq : i = a
      · subst heq
        simp only [Memory.set, hlt, ↓reduceIte, Memory.risingFrom, Bool.and_eq_true, decide_eq_true_eq]
        exact ⟨hni, h.2⟩
      · simp only [Memory.set, hlt, heq, ↓reduceIte, Memory.risingFrom, Bool.and_eq_true, decide_eq_true_eq]
        exact ⟨h.1, ih (by omega) h.2⟩

/-- A write keeps the canonical form. -/
theorem set_keeps_wf {m : Memory} (i : Nat) (v : Byte) (h : m.wf = true) : (m.set i v).wf = true :=
  set_keeps_risingFrom v (Nat.zero_le i) h

@[simp] theorem nil_wf : Memory.wf [] = true := rfl

theorem ofBytesFrom_risingFrom (bs : List Byte) {n i : Nat} (h : n ≤ i) :
    Memory.risingFrom n (Memory.ofBytesFrom i bs) = true := by
  induction bs generalizing n i with
  | nil => rfl
  | cons b bs ih =>
    simp only [Memory.ofBytesFrom, Memory.risingFrom, Bool.and_eq_true, decide_eq_true_eq]
    exact ⟨h, ih (Nat.le_refl _)⟩

/-- A space laid out from a sequence is canonical. -/
theorem ofBytesFrom_wf (i : Nat) (bs : List Byte) : (Memory.ofBytesFrom i bs).wf = true :=
  ofBytesFrom_risingFrom bs (Nat.zero_le i)

/-- A space laid out from a sequence holds it. -/
theorem get_ofBytesFrom (bs : List Byte) (i j : Nat) :
    (Memory.ofBytesFrom i bs).get? j = if i ≤ j then bs[j - i]? else none := by
  induction bs generalizing i with
  | nil => simp [Memory.ofBytesFrom]
  | cons b bs ih =>
    by_cases hij : i = j
    · subst hij; simp [Memory.ofBytesFrom, Memory.get?]
    · simp only [Memory.ofBytesFrom, Memory.get?, hij, ↓reduceIte, ih]
      by_cases hlt : i + 1 ≤ j
      · have h1 : i ≤ j := by omega
        have h2 : j - i = (j - (i + 1)) + 1 := by omega
        simp [hlt, h1, h2]
      · have h1 : ¬ i ≤ j := by omega
        simp [hlt, h1]

end Sys2Proof.Laws
end

