-- ==== Sys2Proof/Laws/Ops.lean ====
section
/-! SUPPORT. One lemma for each shared operation: everything it can do, and where it completes. -/

namespace Sys2Proof.Laws

open Sys2Proof.Machine

variable {s t : State} {i : Nat} {v b : Byte}

/-! ### The memory primitives -/

theorem rxRead_ok : rxRead s i = .ok b ↔ s.phase = .proc ∧ i < s.rxlen ∧ s.rxbuf.get? i = some b := by
  unfold rxRead
  split
  · rename_i h
    cases hg : s.rxbuf.get? i <;> simp [h]
  · rename_i h
    simp only [reduceCtorEq, false_iff]
    rintro ⟨h1, h2, -⟩
    exact h ⟨h1, h2⟩

theorem rxWrite_ok : rxWrite i v s = .ok t ↔
    s.phase = .recv ∧ i = s.rxlen ∧ rxHasRoom s.cfg i = true ∧ t = setRxbuf (s.rxbuf.set i v) s := by
  unfold rxWrite
  split
  · rename_i h
    obtain ⟨h1, rfl, h3⟩ := h
    simp only [Except.ok.injEq, h1, h3, true_and]
    exact eq_comm
  · rename_i h
    simp only [reduceCtorEq, false_iff]
    rintro ⟨h1, h2, h3, -⟩
    exact h ⟨h1, h2, h3⟩

theorem txWrite_ok : txWrite i v s = .ok t ↔
    s.phase = .proc ∧ i < s.cfg.consts.txMax ∧ t = setTxbuf (s.txbuf.set i v) s := by
  unfold txWrite
  split
  · rename_i h
    simp only [Except.ok.injEq, h, true_and]
    exact eq_comm
  · rename_i h
    simp only [reduceCtorEq, false_iff]
    rintro ⟨h1, h2, -⟩
    exact h ⟨h1, h2⟩

theorem txRead_ok : txRead s i = .ok b ↔ s.phase = .send ∧ i < s.txlen ∧ s.txbuf.get? i = some b := by
  unfold txRead
  split
  · rename_i h
    cases hg : s.txbuf.get? i <;> simp [h]
  · rename_i h
    simp only [reduceCtorEq, false_iff]
    rintro ⟨h1, h2, -⟩
    exact h ⟨h1, h2⟩

/-- The cells after writing a sequence from index `i` upward. -/
def writeBytes : Memory → Nat → List Byte → Memory
  | m, _, [] => m
  | m, i, b :: bs => writeBytes (m.set i b) (i + 1) bs

theorem writeBytes_append (m : Memory) (i : Nat) (xs ys : List Byte) :
    writeBytes m i (xs ++ ys) = writeBytes (writeBytes m i xs) (i + xs.length) ys := by
  induction xs generalizing m i with
  | nil => rfl
  | cons x xs ih => simp [writeBytes, ih, Nat.add_comm, Nat.add_assoc]

/-- What every index reads as after writing a sequence. -/
theorem get_writeBytes (m : Memory) (i j : Nat) (bs : List Byte) :
    (writeBytes m i bs).get? j = if i ≤ j ∧ j < i + bs.length then bs[j - i]? else m.get? j := by
  induction bs generalizing m i with
  | nil =>
    have h : ¬ (i ≤ j ∧ j < i + 0) := by omega
    simp only [writeBytes, List.length_nil, h, ↓reduceIte]
  | cons b bs ih =>
    rw [writeBytes, ih, get_set]
    by_cases hij : i = j
    · subst hij; simp
    · by_cases h1 : i + 1 ≤ j ∧ j < i + 1 + bs.length
      · have h2 : i ≤ j ∧ j < i + (b :: bs).length := by simp only [List.length_cons]; omega
        have h3 : j - i = (j - (i + 1)) + 1 := by omega
        simp only [h1, h2, and_self, ↓reduceIte, h3, List.getElem?_cons_succ]
      · have h2 : ¬ (i ≤ j ∧ j < i + (b :: bs).length) := by simp only [List.length_cons]; omega
        simp only [h1, h2, hij, ↓reduceIte]

theorem writeBytes_wf {m : Memory} (h : m.wf = true) (i : Nat) (bs : List Byte) : (writeBytes m i bs).wf = true := by
  induction bs generalizing m i with
  | nil => exact h
  | cons b bs ih => exact ih (set_keeps_wf i b h) (i + 1)

/-- Writing a sequence to `TXBUF`: when it succeeds, and what it does. -/
theorem txWriteAll_ok (bs : List Byte) : txWriteAll i bs s = .ok t ↔
    (bs = [] ∨ s.phase = .proc ∧ i + bs.length ≤ s.cfg.consts.txMax) ∧ t = setTxbuf (writeBytes s.txbuf i bs) s := by
  induction bs generalizing i s with
  | nil => simp [txWriteAll, writeBytes, setTxbuf, eq_comm]
  | cons b bs ih =>
    unfold txWriteAll
    split
    · rename_i f hf
      simp only [reduceCtorEq, false_or, List.length_cons, false_iff]
      rintro ⟨⟨h1, h2⟩, -⟩
      have : txWrite i b s = .ok (setTxbuf (s.txbuf.set i b) s) := txWrite_ok.2 ⟨h1, by omega, rfl⟩
      rw [this] at hf
      exact absurd hf (by simp)
    · rename_i s' hs'
      obtain ⟨h1, h2, rfl⟩ := txWrite_ok.1 hs'
      rw [ih]
      simp only [setTxbuf_phase, setTxbuf_txbuf, reduceCtorEq, false_or, List.length_cons, writeBytes, h1, true_and]
      have h3 : (bs = [] ∨ i + 1 + bs.length ≤ s.cfg.consts.txMax) ↔ i + (bs.length + 1) ≤ s.cfg.consts.txMax := by
        constructor
        · rintro (rfl | h)
          · simpa using h2
          · omega
        · intro h; right; omega
      rw [setTxbuf_cfg, h3]
      rfl

/-! ### The loop of ST_VERIFY -/

/-- Everything the loop can do. -/
theorem verifyLoop_next {k : Nat} (h : verifyLoop k s = .ok t) :
    ∃ bs : List Byte, bs.length = k ∧ (∀ j, j < k → s.rxbuf.get? (s.idx + j) = bs[j]?) ∧
      (0 < k → s.phase = .proc ∧ s.idx + k ≤ s.rxlen) ∧
      t = setIdx (s.idx + k) (setAcc (accBytes s.cfg.consts s.acc bs) s) := by
  induction k generalizing s with
  | zero =>
    simp only [verifyLoop, Except.ok.injEq] at h
    exact ⟨[], rfl, by simp, by simp, by simp [← h, setIdx, setAcc]⟩
  | succ k ih =>
    unfold verifyLoop at h
    split at h
    · exact absurd h (by simp)
    · rename_i b hb
      obtain ⟨h1, h2, h3⟩ := rxRead_ok.1 hb
      obtain ⟨bs, hl, hg, hr, ht⟩ := ih h
      refine ⟨b :: bs, by simp [hl], ?_, ?_, ?_⟩
      · intro j hj
        cases j with
        | zero => simpa using h3
        | succ j =>
          have := hg j (by omega)
          simpa [Nat.add_assoc, Nat.add_comm 1 j] using this
      · intro _
        refine ⟨h1, ?_⟩
        rcases Nat.eq_zero_or_pos k with rfl | hk
        · omega
        · have := (hr hk).2
          simp at this
          omega
      · rw [ht]
        simp [setIdx, setAcc, Nat.add_assoc, Nat.add_comm 1 k]

/-- Where the loop completes. -/
theorem verifyLoop_ok {bs : List Byte} (hp : s.phase = .proc) (hl : s.idx + bs.length ≤ s.rxlen)
    (hg : ∀ j, j < bs.length → s.rxbuf.get? (s.idx + j) = bs[j]?) :
    verifyLoop bs.length s = .ok (setIdx (s.idx + bs.length) (setAcc (accBytes s.cfg.consts s.acc bs) s)) := by
  induction bs generalizing s with
  | nil => rfl
  | cons b bs ih =>
    have h0 : rxRead s s.idx = .ok b :=
      rxRead_ok.2 ⟨hp, by simp at hl; omega, by simpa using hg 0 (by simp)⟩
    simp only [List.length_cons, verifyLoop, h0]
    rw [ih (by simpa using hp) (by simp at hl ⊢; omega)]
    · simp [setIdx, setAcc, Nat.add_assoc, Nat.add_comm 1 bs.length]
    · intro j hj
      have := hg (j + 1) (by simpa using hj)
      simpa [Nat.add_assoc, Nat.add_comm 1 j] using this

/-! ### ST_SEAL -/

/-- The bytes of a response: the template, sealed or not. -/
def responseBytes (k : Constants) (template : List Byte) (sealed : Bool) : List Byte :=
  if sealed then sealBytes k template else template

/-- The state ST_SEAL ends in. -/
def answeredState (template : List Byte) (sealed : Bool) (d : Diag) (s : State) : State :=
  finishAnswer (responseBytes s.cfg.consts template sealed).length d
    (setTxbuf (writeBytes s.txbuf 0 (responseBytes s.cfg.consts template sealed))
      (if sealed then setIdx template.length (setAcc (accBytes s.cfg.consts s.cfg.consts.crcInit template) s) else s))

/-- ST_SEAL completes in PROC on every response that fits `TXBUF`. -/
theorem sendResponse_ok {template : List Byte} {sealed : Bool} {d : Diag} (hp : s.phase = .proc)
    (hl : (responseBytes s.cfg.consts template sealed).length ≤ s.cfg.consts.txMax) :
    sendResponse template sealed d s = .next (answeredState template sealed d s) := by
  have hl' : 0 + template.length ≤ s.cfg.consts.txMax := by
    cases sealed <;> simp [responseBytes] at hl <;> omega
  have h1 : txWriteAll 0 template s = .ok (setTxbuf (writeBytes s.txbuf 0 template) s) :=
    (txWriteAll_ok template).2 ⟨.inr ⟨hp, hl'⟩, rfl⟩
  cases sealed with
  | false => simp [sendResponse, h1, answeredState, responseBytes]
  | true =>
    simp only [responseBytes, ↓reduceIte, sealBytes_length] at hl
    simp only [sendResponse, h1, ↓reduceIte, appendCrc, crcInit_eq, sealLoop_eq]
    have h2 := (txWriteAll_ok (i := template.length)
      (s := setIdx template.length (setAcc (accBytes s.cfg.consts s.cfg.consts.crcInit template)
        (setTxbuf (writeBytes s.txbuf 0 template) s)))
      (crcField (computeCrc s.cfg.consts template))).2 ⟨.inr ⟨hp, by simpa using hl⟩, rfl⟩
    simp only [setIdx_idx, setIdx_acc, setAcc_acc, setIdx_cfg, setAcc_cfg, setTxbuf_cfg, crcFinal, Nat.zero_add]
    rw [show setIdx template.length (setAcc (accBytes s.cfg.consts s.cfg.consts.crcInit template)
      (setIdx 0 (setAcc s.cfg.consts.crcInit (setTxbuf (writeBytes s.txbuf 0 template) s)))) =
      setIdx template.length (setAcc (accBytes s.cfg.consts s.cfg.consts.crcInit template)
        (setTxbuf (writeBytes s.txbuf 0 template) s)) from rfl]
    rw [show accFinal s.cfg.consts (accBytes s.cfg.consts s.cfg.consts.crcInit template) =
      computeCrc s.cfg.consts template from rfl, h2]
    simp only [answeredState, responseBytes, ↓reduceIte, sealBytes, writeBytes_append, Nat.zero_add,
      List.length_append, crcField_length]
    rfl

/-- Outside PROC nothing can be written to `TXBUF` (20_memory R42). -/
theorem sendResponse_outside {template : List Byte} {sealed : Bool} {d : Diag} (hp : s.phase ≠ .proc)
    (ht : template ≠ []) : sendResponse template sealed d s = .fault .txWriteIllegal := by
  cases template with
  | nil => exact absurd rfl ht
  | cons b bs => simp [sendResponse, txWriteAll, txWrite, hp]

/-! ### The commands -/

/-- The template a command answers with. -/
def templateOf (k : Constants) : Instr → List Byte
  | .unknown _ => k.fallback
  | i => (romRead k (encodeCode k i)).2

/-- Whether a command's answer is sealed. -/
def sealedFor (p : Params) : Instr → Bool
  | .unknown _ => sealFallback p
  | _ => true

/-- The event a command reports. -/
def diagFor (k : Constants) : Instr → Diag
  | .unknown c => .unknown c
  | i => .ok (encodeCode k i)

/-- A code in the table is known to the ROM. -/
theorem romRead_known (k : Constants) (r : ResponseRow) (h : r ∈ tableRows k) : (romRead k r.code).1 = true := by
  unfold romRead
  split
  · rfl
  · rename_i hn
    exact absurd (List.find?_eq_none.1 hn r h) (by simp)

/-- Every command is ST_SEAL on its template. -/
theorem exec_eq_sendResponse (c : Instr) (s : State) :
    exec c s = sendResponse (templateOf s.cfg.consts c) (sealedFor s.cfg c) (diagFor s.cfg.consts c) s := by
  cases c with
  | unknown c => rfl
  | _ =>
    simp only [exec, execQueryId, execAbortTx, execApplyCfg, execSendData, execQueryBurst, answerFromRom, templateOf,
      sealedFor, diagFor, encodeCode]
    rw [romRead_known _ _ (by simp [tableRows])]
    rfl

/-- A code outside the recognized set is answered from its ROM entry (42_command_mux R95, R101). -/
theorem execUnknown_eq_answerFromRom {c : Byte} (h : (Instr.unknown c).wf s.cfg.consts = true) :
    execUnknown c s = answerFromRom c s := by
  have h1 : (romRead s.cfg.consts c).1 = false := by simpa [Instr.wf] using h
  have h2 : (romRead s.cfg.consts c).2 = s.cfg.consts.fallback := by
    unfold romRead at h1 ⊢
    split at h1
    · exact absurd h1 (by simp)
    · rfl
  simp [execUnknown, answerFromRom, h1, h2]

/-- ST_SEAL runs the command of a code: it answers from the ROM entry of the code (42_command_mux R95, R102, R103). -/
theorem exec_decodeCode (c : Byte) (s : State) : exec (decodeCode s.cfg.consts c) s = answerFromRom c s := by
  have hw := (decodeCode_wf s.cfg.consts c)
  cases hd : decodeCode s.cfg.consts c with
  | unknown b =>
    rw [hd] at hw
    obtain ⟨h1, h2⟩ := hw
    obtain rfl : b = c := h2
    exact execUnknown_eq_answerFromRom h1
  | _ =>
    rw [hd] at hw
    rw [← hw.2]
    rfl

/-- A command's template is one of the templates. -/
theorem templateOf_mem (k : Constants) (c : Instr) : templateOf k c ∈ templates k := by
  cases c with
  | unknown c => simp [templateOf, templates]
  | _ => exact romRead_mem k _

/-- Templates of legal constants have 3 bytes or more and fit sealed. -/
theorem templateOf_length {k : Constants} (h : constantsLegal k = true) (c : Instr) :
    3 ≤ (templateOf k c).length ∧ (templateOf k c).length + 2 ≤ k.txMax :=
  template_fits h (templateOf_mem k c)

theorem response_fits (c : Instr) {p : Params} (h : constantsLegal p.consts = true) :
    (responseBytes p.consts (templateOf p.consts c) (sealedFor p c)).length ≤ p.consts.txMax := by
  have hf := (templateOf_length h c).2
  unfold responseBytes
  split
  · simpa using hf
  · omega

/-- Every command completes in PROC under legal constants. -/
theorem exec_ok (c : Instr) (hp : s.phase = .proc) (hk : constantsLegal s.cfg.consts = true) :
    exec c s =
      .next (answeredState (templateOf s.cfg.consts c) (sealedFor s.cfg c) (diagFor s.cfg.consts c) s) := by
  rw [exec_eq_sendResponse]
  exact sendResponse_ok hp (response_fits c hk)

/-- Everything ST_SEAL can do: nothing is written outside PROC or beyond `TXBUF`. -/
theorem sendResponse_next {template : List Byte} {sealed : Bool} {d : Diag} :
    sendResponse template sealed d s = .next t ↔
      (responseBytes s.cfg.consts template sealed = [] ∨
        s.phase = .proc ∧ (responseBytes s.cfg.consts template sealed).length ≤ s.cfg.consts.txMax) ∧
      t = answeredState template sealed d s := by
  constructor
  · intro h
    have hok : (s.phase = .proc ∧ (responseBytes s.cfg.consts template sealed).length ≤ s.cfg.consts.txMax) →
        t = answeredState template sealed d s := fun hc => by
      rw [sendResponse_ok hc.1 hc.2] at h
      exact (Host.Outcome.next.inj h).symm
    unfold sendResponse at h
    split at h
    · exact absurd h (by simp)
    · rename_i s1 hs1
      obtain ⟨hw, rfl⟩ := (txWriteAll_ok template).1 hs1
      cases sealed with
      | false =>
        refine ⟨?_, by simpa [answeredState, responseBytes] using h.symm⟩
        simpa [responseBytes] using hw
      | true =>
        simp only [↓reduceIte] at h
        split at h
        · exact absurd h (by simp)
        · rename_i s2 hs2
          have hc := ((txWriteAll_ok _).1 hs2).1.resolve_left (by simp [crcField])
          simp only [crcInit_eq, sealLoop_eq] at hc
          have hc' : s.phase = .proc ∧
              (responseBytes s.cfg.consts template true).length ≤ s.cfg.consts.txMax := by
            simpa [responseBytes, crcField] using hc
          exact ⟨.inr hc', hok hc'⟩
  · rintro ⟨h | ⟨hp, hl⟩, rfl⟩
    · have hs : sealed = false := by
        cases sealed
        · rfl
        · exact absurd (congrArg List.length h) (by simp [responseBytes])
      subst hs
      obtain rfl : template = [] := by simpa [responseBytes] using h
      rfl
    · exact sendResponse_ok hp hl

/-- Everything a command can do. -/
theorem exec_next {c : Instr} (h : exec c s = .next t) :
    t = answeredState (templateOf s.cfg.consts c) (sealedFor s.cfg c) (diagFor s.cfg.consts c) s ∧
      (constantsLegal s.cfg.consts = true → s.phase = .proc) := by
  rw [exec_eq_sendResponse, sendResponse_next] at h
  refine ⟨h.2, fun hk => (h.1.resolve_left fun h0 => ?_).1⟩
  have h3 := (templateOf_length hk c).1
  have h4 := congrArg List.length h0
  unfold responseBytes at h4
  split at h4 <;> simp only [sealBytes_length, List.length_nil] at h4 <;> omega

end Sys2Proof.Laws
end

