-- ==== Sys2Proof/Laws/PerInstr.lean ====
section
/-! SUPPORT. Facts stated of every command, one lemma a constructor: the code byte of a well-formed command decodes back
to it (30_encoding R53). -/

namespace Sys2Proof.Laws

open Sys2Proof.Machine

/-- Under legal constants the code byte of a well-formed command selects that command. -/
def CodeRoundTrip.Statement (i : Instr) : Prop :=
  ∀ k : Constants, constantsLegal k = true → i.wf k = true → decodeCode k (encodeCode k i) = i

/-- The codes of legal constants are different. -/
theorem codes_nodup {k : Constants} (h : constantsLegal k = true) : ((tableRows k).map (·.code)).Nodup :=
  ((constantsLegal_iff k).1 h).2.2.2.2.1

theorem CodeRoundTrip.queryId : CodeRoundTrip.Statement .queryId := fun k _ _ => by
  simp [encodeCode, decodeCode]

theorem CodeRoundTrip.abortTx : CodeRoundTrip.Statement .abortTx := fun k h _ => by
  have := codes_nodup h
  simp only [tableRows, List.map_cons, List.nodup_cons, List.mem_cons, not_or] at this
  simp [encodeCode, decodeCode, Ne.symm this.1.1]

theorem CodeRoundTrip.applyCfg : CodeRoundTrip.Statement .applyCfg := fun k h _ => by
  have := codes_nodup h
  simp only [tableRows, List.map_cons, List.nodup_cons, List.mem_cons, not_or] at this
  simp [encodeCode, decodeCode, Ne.symm this.1.2.1, Ne.symm this.2.1.1]

theorem CodeRoundTrip.sendData : CodeRoundTrip.Statement .sendData := fun k h _ => by
  have := codes_nodup h
  simp only [tableRows, List.map_cons, List.nodup_cons, List.mem_cons, not_or] at this
  simp [encodeCode, decodeCode, Ne.symm this.1.2.2.1, Ne.symm this.2.1.2.1, Ne.symm this.2.2.1.1]

theorem CodeRoundTrip.queryBurst : CodeRoundTrip.Statement .queryBurst := fun k h _ => by
  have := codes_nodup h
  simp only [tableRows, List.map_cons, List.nodup_cons, List.mem_cons, not_or] at this
  simp [encodeCode, decodeCode, Ne.symm this.1.2.2.2.1, Ne.symm this.2.1.2.2.1, Ne.symm this.2.2.1.2.1,
    Ne.symm this.2.2.2.1.1]

theorem CodeRoundTrip.unknown (code : Byte) : CodeRoundTrip.Statement (.unknown code) := fun k _ h => by
  simp only [Instr.wf, Bool.not_eq_true', romRead_chain] at h
  simp only [encodeCode, decodeCode]
  split_ifs at h
  simp [*]

end Sys2Proof.Laws
end

