-- ==== Sys2Proof/Laws/Step.lean ====
section
/-! SUPPORT. Everything a stage, a host operation and a step can do, said once. -/

namespace Sys2Proof.Laws

open Sys2Proof.Machine

variable {s t : State}

/-! ### The stages -/

/-- The byte ST_GUARD looked at, where it looked at one. -/
theorem guardFirstByte_ok {first : Option Byte} (h : guardFirstByte s = .ok first) :
    guardReadsFirst s.cfg s.rxlen = false ∧ first = none ∨
      guardReadsFirst s.cfg s.rxlen = true ∧ s.phase = .proc ∧ 0 < s.rxlen ∧
        ∃ b, first = some b ∧ s.rxbuf.get? 0 = some b := by
  unfold guardFirstByte at h
  split at h
  · rename_i hr
    split at h
    · exact absurd h (by simp)
    · rename_i b hb
      obtain ⟨h1, h2, h3⟩ := rxRead_ok.1 hb
      exact .inr ⟨hr, h1, h2, b, (Except.ok.inj h).symm, h3⟩
  · rename_i hr
    exact .inl ⟨by simpa using hr, (Except.ok.inj h).symm⟩

/-- ST_GUARD rejects or passes to ST_EXTRACT. -/
theorem stageGuard_next (h : stageGuard s = .next t) :
    s.rxovf = true ∧ t = reject .overflow s ∨
      s.rxovf = false ∧ ∃ first, guardFirstByte s = .ok first ∧
        ((∃ c, guardCause s.cfg s.rxlen first = some c ∧ t = reject c s) ∨
          guardCause s.cfg s.rxlen first = none ∧ t = setStage .extract s) := by
  unfold stageGuard at h
  split at h
  · rename_i ho
    exact .inl ⟨ho, (Host.Outcome.next.inj h).symm⟩
  · rename_i ho
    split at h
    · exact absurd h (by simp)
    · rename_i first hf
      refine .inr ⟨by simpa using ho, first, hf, ?_⟩
      split at h
      · rename_i c hc
        exact .inl ⟨c, hc, (Host.Outcome.next.inj h).symm⟩
      · rename_i hc
        exact .inr ⟨hc, (Host.Outcome.next.inj h).symm⟩

/-- A buffer that passes ST_GUARD has the least length of the variant. -/
theorem guardCause_none {p : Params} {n : Nat} {first : Option Byte} (h : guardCause p n first = none) :
    minLen p ≤ n ∧ first = some p.consts.sync := by
  unfold guardCause at h
  cases first with
  | none => simp at h
  | some b =>
    by_cases hs : b = p.consts.sync <;> by_cases hl : n < minLen p <;> cases hb : lenBeforeSync p <;>
      simp [tooShort, syncBad, hs, hl, hb] at h
    all_goals exact ⟨by omega, by rw [hs]⟩

/-- ST_EXTRACT writes `CLAIMED` and passes to ST_VERIFY. -/
theorem stageExtract_next (h : stageExtract s = .next t) :
    s.phase = .proc ∧ 2 ≤ s.rxlen ∧ ∃ low high, s.rxbuf.get? (s.rxlen - 2) = some low ∧
      s.rxbuf.get? (s.rxlen - 1) = some high ∧ t = setStage .verify (setClaimed (joinWord low high) s) := by
  unfold stageExtract at h
  split at h
  · exact absurd h (by simp)
  · rename_i hl
    split at h
    · rename_i low high h1 h2
      obtain ⟨hp, -, hg1⟩ := rxRead_ok.1 h1
      obtain ⟨-, -, hg2⟩ := rxRead_ok.1 h2
      exact ⟨hp, by simp [crcLen] at hl; omega, low, high, hg1, hg2, (Host.Outcome.next.inj h).symm⟩
    · exact absurd h (by simp)
    · exact absurd h (by simp)

/-- The state after the CRC of the covered bytes `bs` has been computed into `COMPUTED`. -/
def verifiedState (bs : List Byte) (s : State) : State :=
  setComputed (computeCrc s.cfg.consts bs)
    (setIdx bs.length (setAcc (accBytes s.cfg.consts s.cfg.consts.crcInit bs) s))

/-- ST_VERIFY passes without looking, or computes the CRC of the covered bytes and rejects or passes. -/
theorem stageVerify_next (h : stageVerify s = .next t) :
    verifyRxCrc s.cfg = false ∧ t = setStage .dispatch s ∨
      verifyRxCrc s.cfg = true ∧ ∃ bs : List Byte, bs.length = s.rxlen - 2 ∧
        (∀ j, j < s.rxlen - 2 → s.rxbuf.get? j = bs[j]?) ∧ (0 < s.rxlen - 2 → s.phase = .proc) ∧
        (computeCrc s.cfg.consts bs ≠ s.claimed ∧
            t = reject (.crc (computeCrc s.cfg.consts bs) s.claimed) (verifiedState bs s) ∨
          computeCrc s.cfg.consts bs = s.claimed ∧ t = setStage .dispatch (verifiedState bs s)) := by
  unfold stageVerify at h
  split at h
  · rename_i hv
    split at h
    · exact absurd h (by simp)
    · rename_i s1 hs1
      obtain ⟨bs, hl, hg, hp, rfl⟩ := verifyLoop_next hs1
      refine .inr ⟨hv, bs, hl, ?_, fun h0 => (hp h0).1, ?_⟩
      · intro j hj
        simpa using hg j hj
      · have hc : crcFinal (setIdx ((setIdx 0 (crcInit s)).idx + (s.rxlen - crcLen))
            (setAcc (accBytes (setIdx 0 (crcInit s)).cfg.consts (setIdx 0 (crcInit s)).acc bs) (setIdx 0 (crcInit s)))) =
            computeCrc s.cfg.consts bs := rfl
        rw [hc] at h
        simp only [crcInit_eq, setIdx_claimed, setAcc_claimed, setIdx_idx, Nat.zero_add] at h
        have hb : s.rxlen - crcLen = bs.length := hl.symm
        rw [hb] at h
        split at h
        · rename_i hne
          exact .inl ⟨by simpa [crcBad] using hne, (Host.Outcome.next.inj h).symm⟩
        · rename_i heq
          exact .inr ⟨by simpa [crcBad] using heq, (Host.Outcome.next.inj h).symm⟩
  · rename_i hv
    exact .inl ⟨by simpa using hv, (Host.Outcome.next.inj h).symm⟩

@[simp] theorem noCommandByte_eq (k : Constants) (n : Nat) : noCommandByte k n = decide (n ≤ k.cmdIndex) := rfl

/-- ST_DISPATCH rejects a buffer without a command byte, or latches it and passes to ST_SEAL. -/
theorem stageDispatch_next (h : stageDispatch s = .next t) :
    s.rxlen ≤ s.cfg.consts.cmdIndex ∧ t = reject .short s ∨
      s.cfg.consts.cmdIndex < s.rxlen ∧ s.phase = .proc ∧ ∃ c, s.rxbuf.get? s.cfg.consts.cmdIndex = some c ∧
      t = setStage .sealing (setCmd c s) := by
  unfold stageDispatch at h
  split at h
  · rename_i hl
    exact .inl ⟨by simpa [noCommandByte_eq] using hl, (Host.Outcome.next.inj h).symm⟩
  · rename_i hl
    split at h
    · exact absurd h (by simp)
    · rename_i c hc
      obtain ⟨hp, -, hg⟩ := rxRead_ok.1 hc
      exact .inr ⟨by simpa [noCommandByte_eq] using hl, hp, c, hg, (Host.Outcome.next.inj h).symm⟩

/-! ### The host operations -/

/-- RX_BYTE stores the byte or marks the overflow. -/
theorem opRxByte_next {b : Byte} (h : opRxByte b s = .next t) :
    rxHasRoom s.cfg s.rxlen = true ∧ s.phase = .recv ∧
        t = { s with rxbuf := s.rxbuf.set s.rxlen b, rxlen := s.rxlen + 1 } ∨
      rxHasRoom s.cfg s.rxlen = false ∧ t = { s with rxovf := true } := by
  unfold opRxByte at h
  split at h
  · rename_i hr
    split at h
    · exact absurd h (by simp)
    · rename_i s1 hs1
      obtain ⟨hp, -, -, rfl⟩ := rxWrite_ok.1 hs1
      exact .inl ⟨hr, hp, (Host.Outcome.next.inj h).symm⟩
  · rename_i hr
    exact .inr ⟨by simpa using hr, (Host.Outcome.next.inj h).symm⟩

/-- TX_POP delivers the byte at `TXPTR` and moves on, or ends in RECV with the last one. -/
theorem opTxPop_next (h : opTxPop s = .next t) :
    s.phase = .send ∧ s.txptr < s.txlen ∧ ∃ b, s.txbuf.get? s.txptr = some b ∧
      (s.txptr = s.txlen - 1 ∧ t = { s with sent := s.sent ++ [(b, true)], txlen := 0, txptr := 0, phase := .recv } ∨
        s.txptr ≠ s.txlen - 1 ∧ t = { s with sent := s.sent ++ [(b, false)], txptr := s.txptr + 1 }) := by
  unfold opTxPop at h
  split at h
  · exact absurd h (by simp)
  · rename_i b hb
    obtain ⟨hp, hl, hg⟩ := txRead_ok.1 hb
    refine ⟨hp, hl, b, hg, ?_⟩
    split at h
    · rename_i he
      exact .inl ⟨he, (Host.Outcome.next.inj h).symm⟩
    · rename_i he
      exact .inr ⟨he, (Host.Outcome.next.inj h).symm⟩

/-! ### A step -/

/-- The block by itself runs a stage or waits. -/
theorem advance_next (h : advance s = .next t) :
    s.phase = .proc ∧ runStage s = .next t ∨ s.phase ≠ .proc ∧ t = s := by
  unfold advance at h
  split at h
  · rename_i hp
    exact .inl ⟨hp, h⟩
  · rename_i hp
    exact .inr ⟨hp, (Host.Outcome.next.inj h).symm⟩

/-- A step is the block's own, with the queue as it is or without a wait, or an enabled operation of the host. -/
theorem step_next (h : step s = .next t) :
    ((s.inputs = [] ∨ ∃ op rest, s.inputs = op :: rest ∧ opEnabled op s.phase = false) ∧ advance s = .next t) ∨
      ∃ op rest, s.inputs = op :: rest ∧ opEnabled op s.phase = true ∧ perform op (setInputs rest s) = .next t := by
  unfold step sequenceStep at h
  split at h
  · rename_i hi
    exact .inl ⟨.inl hi, h⟩
  · rename_i op rest hi
    split at h
    · rename_i he
      exact .inr ⟨op, rest, hi, he, h⟩
    · rename_i he
      exact .inl ⟨.inr ⟨op, rest, hi, by simpa using he⟩, h⟩

/-- In PROC, with nothing from the host or something that is held, a step is the stage. -/
theorem step_eq_runStage (hp : s.phase = .proc)
    (h : s.inputs = [] ∨ ∃ op rest, s.inputs = op :: rest ∧ opEnabled op .proc = false) : step s = runStage s := by
  unfold step sequenceStep advance
  rcases h with h | ⟨op, rest, h, he⟩
  · simp [h, hp]
  · simp [h, hp, he]

/-! ### Runs -/

theorem run_succ (k : Nat) (h : step s = .next t) :
    Host.Core.run Sys2Proof.core (k + 1) s = Host.Core.run Sys2Proof.core k t := by
  have h' : Sys2Proof.core.step s = .next t := h
  simp only [Host.Core.run, h']

theorem run_add {j k : Nat} {u : State} (h : Host.Core.run Sys2Proof.core k s = .next t)
    (h2 : Host.Core.run Sys2Proof.core j t = .next u) : Host.Core.run Sys2Proof.core (k + j) s = .next u := by
  induction k generalizing s with
  | zero =>
    rw [Nat.zero_add, Host.Outcome.next.inj h]
    exact h2
  | succ k ih =>
    cases hs : step s with
    | next v =>
      rw [run_succ k hs] at h
      rw [Nat.add_right_comm, run_succ _ hs]
      exact ih h
    | fault f =>
      have h' : Sys2Proof.core.step s = .fault f := hs
      simp [Host.Core.run, h'] at h
    | refused r =>
      have h' : Sys2Proof.core.step s = .refused r := hs
      simp [Host.Core.run, h'] at h

end Sys2Proof.Laws
end

