-- ==== Sys2Proof/Tests/Slice0.lean ====
section
/-! SUPPORT. Tests. Every expected value comes from spec/95_test_vectors.md (the section is named) or from the rule that is
named, never from the model. After them, one witness for the hypotheses of each statement that has some. -/

namespace Sys2Proof.Tests

-- One theorem after another: each waiting theorem would hold a thread of its own.
set_option Elab.async false

open Sys2Proof Sys2Proof.Machine Sys2Proof.Safety

/-! ### Small states and parameters -/

def v2 : Params := defaultParams
def v1 : Params := { v2 with variant := .v1Early }
def v1Unverified : Params := { v1 with v1VerifyRxCrc := false }
def v2Min (m : Nat) : Params := { v2 with minLenV2 := m }
def v2Rx (m : Nat) : Params := { v2 with rxMax := some m }

/-- Other legal constants: ABORT_TX has the code `02`. -/
def movedCode : Constants :=
  { constants with respTable := { constants.respTable with abortTx := { code := 0x02, template := [0xAA, 0x05, 0x02] } } }

/-- Other legal constants: the parameters that the catalogues give for CRC-16/KERMIT (40_crc_engine R79). -/
def kermit : Constants := { constants with crcInit := 0x0000, crcXorout := 0x0000 }
def v2With (k : Constants) : Params := { v2 with consts := k }

/-- In RECV with the bytes `raw` received. -/
def recvState (p : Params) (raw : List Byte) : State :=
  { State.reset with cfg := p, rxbuf := Memory.ofBytesFrom 0 raw, rxlen := raw.length }

/-- In PROC at stage `st` with the bytes `raw` received. -/
def procState (p : Params) (raw : List Byte) (st : Stage) : State :=
  { recvState p raw with phase := .proc, stage := st }

/-- In PROC at ST_SEAL with the code `c` latched. -/
def sealState (p : Params) (c : Byte) : State :=
  { procState p (frameOfCode p.consts c) .sealing with cmd := c }

/-- In SEND with the response `resp`, `n` bytes of it popped. -/
def sendState (p : Params) (resp : List Byte) (n : Nat) : State :=
  { State.reset with cfg := p, phase := .send, txbuf := Memory.ofBytesFrom 0 resp, txlen := resp.length, txptr := n }

/-- The next state of an outcome, where there is one. -/
def after : Host.Outcome State Fault Refusal → Option State
  | .next s => some s
  | .fault _ => none
  | .refused _ => none

/-- The five fields that spec/95_test_vectors.md writes for a state. -/
def view (s : State) : Phase × Nat × Bool × Nat × Nat :=
  (s.phase, s.rxlen, s.rxovf, s.txlen, s.txptr)

/-- The bytes of the outbound buffer below `TXLEN`. -/
def response (s : State) : List (Option Byte) :=
  (List.range s.txlen).map s.txbuf.get?

/-- What an answer shows: the response and the event. -/
def answer (o : Host.Outcome State Fault Refusal) : Option (List (Option Byte) × List Diag) :=
  (after o).map (fun s => (response s, s.diags))

/-- The result of the transaction function, as a pair. -/
def result (p : Params) (raw : List Byte) : Option (List Byte) × Diag :=
  ((processCommand p raw).response, (processCommand p raw).diag)

/-! ### WellFormed smoke: an ill-formed term for each check -/

theorem test_wf_unknown_refuses_a_recognized_code :
    (Instr.unknown 0x01).wf constants = false ∧ (Instr.unknown 0x00).wf constants = false ∧
      (Instr.unknown 0x99).wf constants = true ∧ Instr.queryId.wf constants = true := by decide
theorem test_wf_request_refuses_its_command :
    Request.wf constants ⟨.unknown 0x06, 0x00, []⟩ = false ∧
    Request.wf constants ⟨.applyCfg, 0x00, [0x01]⟩ = true := by decide
theorem test_wf_request_longer_than_the_buffer_does_not_fit :
    Request.fits (v2Rx 5) ⟨.queryId, 0x00, [0x00]⟩ = false ∧ Request.fits (v2Rx 6) ⟨.queryId, 0x00, [0x00]⟩ = true ∧
      Request.fits v2 ⟨.queryId, 0x00, [0x00]⟩ = true := by decide
theorem test_wf_params_refuses_each_illegal_value :
    (v2Min 1).wf = false ∧ (v2Min 6).wf = false ∧ (v2Rx 4).wf = false ∧
      (v2Min 2).wf = true ∧ (v2Min 5).wf = true ∧ (v2Rx 5).wf = true ∧ v1Unverified.wf = true := by decide

theorem test_wf_constants_refuses_each_illegal_value :
    constantsLegal { constants with cmdIndex := 3 } = false ∧ constantsLegal { constants with minLenV1 := 1 } = false ∧
      constantsLegal { constants with minLenV1 := 6 } = false ∧ constantsLegal { constants with txMax := 16 } = false ∧
      constantsLegal { constants with txMax := 8 } = false ∧
      constantsLegal { constants with fallback := [0xAA, 0xFF] } = false ∧
      constantsLegal { constants with respTable :=
        { constants.respTable with abortTx := { code := 0x01, template := [0xAA, 0x05, 0x03] } } } = false := by decide
theorem test_wf_constants_accepts_other_values :
    constantsLegal movedCode = true ∧ constantsLegal kermit = true ∧
    constantsLegal { constants with txMax := 15 } = true ∧
      constantsLegal { constants with minLenV1 := 2 } = true := by decide

/-- 91 N1, 93 U19: a corrected code moves the command with it, in the decoder, the ROM and the event. -/
theorem test_corrected_code_changes_no_rule :
    decodeCode movedCode 0x02 = .abortTx ∧ decodeCode movedCode 0x03 = .unknown 0x03 ∧
      (romRead movedCode 0x02).1 = true ∧ (romRead movedCode 0x03).1 = false ∧
      (after (step { sealState (v2With movedCode) 0x02 with inputs := [] })).map (·.diags) = some [.ok 0x02] ∧
      (after (step { sealState (v2With movedCode) 0x03 with inputs := [] })).map (·.diags) = some [.unknown 0x03] := by
  decide +kernel

/-- The catalogues' check value of CRC-16/KERMIT (from outside the spec; R79 names the algorithm). -/
theorem test_corrected_crc_constants_change_no_rule :
    computeCrc kermit [0x31, 0x32, 0x33, 0x34, 0x35, 0x36, 0x37, 0x38, 0x39] = 0x2189 := by decide +kernel

theorem test_wf_params_refuses_a_template_beyond_the_index_width :
    Params.wf { v2With { constants with txMax := 15, fallback := List.replicate 8 0xAA } with rxMax := some 7 } = false ∧
      Params.wf { v2With { constants with txMax := 15, fallback := List.replicate 8 0xAA } with rxMax := some 8 } = true := by
  decide

/-! ### Decoding and encoding (95 section 2.5: one word for every row of the opcode table) -/

theorem test_decode_send_data : decodeFrame v2 [0xAA, 0x00, 0x00, 0x61, 0xBA] = .ok ⟨.sendData, 0x00, []⟩ := by
  decide +kernel
theorem test_decode_query_id : decodeFrame v2 [0xAA, 0x05, 0x01, 0x50, 0xD5] = .ok ⟨.queryId, 0x05, []⟩ := by
  decide +kernel
theorem test_decode_abort_tx : decodeFrame v2 [0xAA, 0x00, 0x03, 0xFA, 0x88] = .ok ⟨.abortTx, 0x00, []⟩ := by
  decide +kernel
theorem test_decode_query_burst :
    decodeFrame v2 [0xAA, 0x07, 0x04, 0x00, 0x00, 0x5B, 0x5D] = .ok ⟨.queryBurst, 0x07, [0x00, 0x00]⟩ := by
  decide +kernel
theorem test_decode_apply_cfg :
    decodeFrame v2 [0xAA, 0x00, 0x06, 0xAA, 0xAA, 0x1D, 0xE7] = .ok ⟨.applyCfg, 0x00, [0xAA, 0xAA]⟩ := by
  decide +kernel
theorem test_decode_unknown_single_rows :
    decodeFrame v2 [0xAA, 0x00, 0x02, 0x73, 0x99] = .ok ⟨.unknown 0x02, 0x00, []⟩ ∧
    decodeFrame v2 [0xAA, 0x00, 0x05, 0xCC, 0xED] = .ok ⟨.unknown 0x05, 0x00, []⟩ ∧
    decodeFrame v2 [0xAA, 0x00, 0x07, 0xDE, 0xCE] = .ok ⟨.unknown 0x07, 0x00, []⟩ := by decide +kernel
theorem test_decode_unknown_range_rows :
    decodeFrame v2 [0xAA, 0x00, 0x08, 0x29, 0x36] = .ok ⟨.unknown 0x08, 0x00, []⟩ ∧
    decodeFrame v2 [0xAA, 0x00, 0x10, 0xE0, 0xAA] = .ok ⟨.unknown 0x10, 0x00, []⟩ ∧
    decodeFrame v2 [0xAA, 0x00, 0x20, 0x63, 0x9B] = .ok ⟨.unknown 0x20, 0x00, []⟩ ∧
    decodeFrame v2 [0xAA, 0x00, 0x7F, 0x11, 0x31] = .ok ⟨.unknown 0x7F, 0x00, []⟩ ∧
    decodeFrame v2 [0xAA, 0x05, 0xFF, 0xA1, 0xCB] = .ok ⟨.unknown 0xFF, 0x05, []⟩ := by decide +kernel

/-- 95 section 2.4.1. -/
theorem test_decode_rejects_by_cause :
    decodeFrame v2 [] = .error .short ∧ decodeFrame v2 [0xAA] = .error .short ∧
    decodeFrame v2 [0x55] = .error .sync ∧ decodeFrame v1 [0x55] = .error .short ∧
    decodeFrame v2 [0x2A, 0x00, 0x01, 0xE8, 0xAB] = .error .sync ∧
    decodeFrame v2 [0xAA, 0x00, 0x01, 0xAB, 0xE8] = .error (.crc 0xABE8 0xE8AB) := by decide +kernel
theorem test_decode_table_word :
    decodeTableWord 8 0x01 = some .queryId ∧ decodeTableWord 8 0x03 = some .abortTx ∧
    decodeTableWord 8 0x06 = some .applyCfg ∧ decodeTableWord 8 0x00 = some .sendData ∧
    decodeTableWord 8 0x04 = some .queryBurst ∧ decodeTableWord 8 0x40 = some (.unknown 0x40) ∧
    decodeTableWord 8 0x80 = some (.unknown 0x80) ∧ decodeTableWord 16 0x01 = none := by decide +kernel

/-- 95 section 2.5.3. -/
theorem test_encode_request :
    encodeRequest constants ⟨.sendData, 0x08, [0x11, 0x22, 0x33]⟩ = [0xAA, 0x08, 0x00, 0x11, 0x22, 0x33, 0xB1, 0xC8] ∧
    encodeRequest constants ⟨.queryId, 0xFF, []⟩ = [0xAA, 0xFF, 0x01, 0x28, 0x54] ∧
    encodeRequest constants ⟨.queryId, 0x00, List.replicate 20 0x00⟩ =
      [0xAA, 0x00, 0x01] ++ List.replicate 20 0x00 ++ [0xF8, 0xB7] := by decide +kernel

/-! ### The CRC engine (95 sections 2.1 to 2.3) -/

theorem test_crc_shift :
    accShift constants 0x0000 = 0x0000 ∧ accShift constants 0x0001 = 0x8408 ∧ accShift constants 0x8000 = 0x4000 ∧
    accShift constants 0x8001 = 0xC408 ∧
    accShift constants 0xFFFF = 0xFBF7 ∧ accShift constants 0x8408 = 0x4204 ∧ accShift constants 0x5555 = 0xAEA2 ∧
    accShift constants 0xF0B8 = 0x785C := by
  decide
theorem test_crc_xorin :
    accXorin 0xFFFF 0xAA = 0xFF55 ∧ accXorin 0x1234 0x56 = 0x1262 ∧ accXorin 0x00FF 0xFF = 0x0000 ∧
    accXorin 0xA237 0x01 = 0xA236 := by decide
theorem test_crc_byte :
    accByte constants 0xFFFF 0x00 = 0x0F87 ∧ accByte constants 0x0000 0x80 = 0x8408 ∧
    accByte constants 0x05D7 0x00 = 0xA237 ∧
    accByte constants 0xA237 0x01 = 0x5417 ∧ accByte constants 0x1234 0x56 = 0x4006 ∧
    accByte constants 0xF0B8 0x00 = 0x3933 := by decide +kernel
theorem test_crc_final : accFinal constants 0xFFFF = 0x0000 ∧ accFinal constants 0x5417 = 0xABE8 ∧
    accFinal constants 0x8579 = 0x7A86 := by decide
theorem test_crc_check_value :
    computeCrc constants [0x31, 0x32, 0x33, 0x34, 0x35, 0x36, 0x37, 0x38, 0x39] = 0x906E ∧
    computeCrc constants [0x00, 0x00, 0x00, 0x00] = 0xFCDE ∧
    computeCrc constants [0xFF, 0xFF] = 0xFFFF := by decide +kernel
theorem test_crc_sealed_and_residue :
    sealBytes constants [] = [0x00, 0x00] ∧ sealBytes constants [0xFD] = [0xFD, 0x12, 0xDC] ∧
    accBytes constants 0xFFFF [0x20, 0x82, 0x6E, 0x8B] = 0xF0B8 ∧
    accBytes constants 0xFFFF [0x47, 0x0F] = 0x0321 := by decide +kernel
theorem test_crc_table :
    crcTable constants 0x01 = 0x1189 ∧ crcTable constants 0x55 = 0x0528 ∧ crcTable constants 0x80 = 0x8408 ∧
    crcTable constants 0xFF = 0x0F78 := by
  decide +kernel

/-- 95 program P7: the micro-operations on the state, from any `ACC`. -/
theorem test_crc_engine_alone :
    (crcByte 0x03 (crcByte 0x05 (crcByte 0xAA (crcInit { State.reset with acc := 0x1234 })))).acc = 0x09BD ∧
    crcFinal { State.reset with acc := 0x09BD } = 0xF642 ∧ crcField 0xF642 = [0x42, 0xF6] := by decide +kernel

/-! ### Validation (95 sections 2.4 and 2.6) -/

theorem test_validator_order_by_variant :
    result v2 [0x55, 0x00, 0x01] = (none, .rejected .sync) ∧ result v1 [0x55, 0x00, 0x01] = (none, .rejected .short) ∧
    result v2 [0xAA, 0x00, 0x01, 0xE8] = (none, .rejected .short) ∧
    result v1 [0x55, 0x00, 0x01, 0x00, 0x00] = (none, .rejected .sync) := by decide +kernel
theorem test_validator_crc :
    result v1 [0xAA, 0x00, 0x01, 0xE8, 0xAB, 0x00] = (none, .rejected (.crc 0xF0D3 0x00AB)) ∧
    result v2 [0xAA, 0xAA, 0xAA, 0xAA, 0xAA] = (none, .rejected (.crc 0xE2BE 0xAAAA)) ∧
    result v2 [0xAA, 0x00, 0x11, 0xE8, 0xAB] = (none, .rejected (.crc 0xBB69 0xABE8)) ∧
    result v2 [0xAA, 0x00, 0x01, 0xE8, 0x2B] = (none, .rejected (.crc 0xABE8 0x2BE8)) := by decide +kernel
theorem test_validator_v1_without_verification :
    result v1Unverified [0xAA, 0x00, 0x99, 0x00, 0x00] =
      (some [0xAA, 0xFF, 0xFF, 0xD9, 0x4A], .unknown 0x99) ∧
    result v1Unverified [0xAA, 0x00, 0x00, 0x00, 0x00, 0x00, 0x00] =
      (some [0xAA, 0x05, 0x00, 0xD9, 0xC4], .ok 0x00) ∧
    result v1Unverified [0xAA, 0x00, 0x01, 0xE8] = (none, .rejected .short) ∧
    result v1 [0xAA, 0x00, 0x99, 0x00, 0x00] = (none, .rejected (.crc 0xB329 0x0000)) := by decide +kernel
theorem test_validator_min_len_2_and_3 :
    result (v2Min 2) [0xAA, 0x00] = (none, .rejected (.crc 0x0000 0x00AA)) ∧
    result (v2Min 3) [0xAA, 0x00] = (none, .rejected .short) ∧
    result (v2Min 3) [0xAA, 0x28, 0xFA] = (some [0xAA, 0xFF, 0xFF], .unknown 0xFA) ∧
    result (v2Min 4) [0xAA, 0x28, 0xFA] = (none, .rejected .short) ∧
    result (v2Min 2) [0x55, 0x28, 0xFA] = (none, .rejected .sync) := by decide +kernel
theorem test_validator_min_len_4 :
    result (v2Min 4) [0xAA, 0x18, 0x01, 0xC1] =
      (some [0xAA, 0x09, 0x01, 0x00, 0x23, 0x18, 0x60, 0x86, 0x7A], .ok 0x01) ∧
    result (v2Min 4) [0xAA, 0x38, 0x03, 0xE0] = (some [0xAA, 0x05, 0x03, 0x42, 0xF6], .ok 0x03) ∧
    result (v2Min 4) [0xAA, 0x00, 0x01, 0xE8] = (none, .rejected (.crc 0x5DC8 0xE801)) ∧
    result v2 [0xAA, 0x18, 0x01, 0xC1] = (none, .rejected .short) := by decide +kernel

/-- 95 program P1: the stages on `AA 00 01 E8 AB`. -/
theorem test_stages_of_a_query :
    (after (stageGuard (procState v2 [0xAA, 0x00, 0x01, 0xE8, 0xAB] .guard))).map (·.stage) = some .extract ∧
    (after (stageExtract (procState v2 [0xAA, 0x00, 0x01, 0xE8, 0xAB] .extract))).map (·.claimed) = some 0xABE8 ∧
    (after (stageVerify { procState v2 [0xAA, 0x00, 0x01, 0xE8, 0xAB] .verify with claimed := 0xABE8 })).map
      (fun s => (s.acc, s.computed, s.stage)) = some (0x5417, 0xABE8, .dispatch) ∧
    (after (stageDispatch (procState v2 [0xAA, 0x00, 0x01, 0xE8, 0xAB] .dispatch))).map
      (fun s => (s.cmd, s.stage)) = some (0x01, .sealing) := by decide +kernel

/-! ### The commands, one step each (95 sections 2.5.1 and 2.5.2) -/

theorem test_exec_query_id :
    answer (exec .queryId (sealState v2 0x01)) =
      some ([0xAA, 0x09, 0x01, 0x00, 0x23, 0x18, 0x60, 0x86, 0x7A].map some, [.ok 0x01]) := by decide +kernel
theorem test_exec_abort_tx :
    answer (exec .abortTx (sealState v1 0x03)) =
      some ([0xAA, 0x05, 0x03, 0x42, 0xF6].map some, [.ok 0x03]) := by decide +kernel
theorem test_exec_apply_cfg :
    answer (exec .applyCfg (sealState v2 0x06)) =
      some ([0xAA, 0x05, 0x06, 0xEF, 0xA1].map some, [.ok 0x06]) := by decide +kernel
theorem test_exec_send_data :
    answer (exec .sendData (sealState v1 0x00)) =
      some ([0xAA, 0x05, 0x00, 0xD9, 0xC4].map some, [.ok 0x00]) := by decide +kernel
theorem test_exec_query_burst :
    answer (exec .queryBurst (sealState v2 0x04)) =
      some ([0xAA, 0x06, 0x04, 0x00, 0xF4, 0x33].map some, [.ok 0x04]) := by decide +kernel
theorem test_exec_unknown_v2 :
    answer (exec (.unknown 0x99) (sealState v2 0x99)) = some ([0xAA, 0xFF, 0xFF].map some, [.unknown 0x99]) := by
  decide +kernel
theorem test_exec_unknown_v1 :
    answer (exec (.unknown 0xFF) (sealState v1 0xFF)) =
      some ([0xAA, 0xFF, 0xFF, 0xD9, 0x4A].map some, [.unknown 0xFF]) := by decide +kernel

/-- 95 program P1, step 6: the machine after the step, and that the placed word is the one that runs. -/
theorem test_step_runs_the_placed_word :
    ((after (step (State.reset.withFetchWord 8 0x01))).map view) = some (.send, 0, false, 9, 0) ∧
    ((after (step (State.reset.withFetchWord 8 0x03))).map view) = some (.send, 0, false, 5, 0) ∧
    ((after (step (State.reset.withFetchWord 8 0x40))).map (·.diags)) = some [.unknown 0x40] := by decide +kernel

/-! ### The port operations (95 section 2.7) -/

theorem test_rx_byte :
    (after (step { State.reset with inputs := [.rxByte 0xAA] })).map (fun s => (view s, s.rxbuf.get? 0)) =
      some ((.recv, 1, false, 0, 0), some 0xAA) := by decide +kernel
theorem test_rx_byte_overflow :
    (after (step { recvState (v2Rx 8) (List.replicate 8 0x00) with inputs := [.rxByte 0x7A] })).map
      (fun s => (view s, s.rxbuf.get? 8)) = some ((.recv, 8, true, 0, 0), none) := by decide +kernel
theorem test_overflow_is_rejected :
    (after (step { procState (v2Rx 8) (List.replicate 8 0xAA) .guard with rxovf := true })).map
      (fun s => (view s, s.diags)) = some ((.recv, 0, false, 0, 0), [.rejected .overflow]) := by decide +kernel
theorem test_tx_pop :
    (after (step { sendState v2 [0xAA, 0x05, 0x03, 0x42, 0xF6] 0 with inputs := [.txPop] })).map view =
      some (.send, 0, false, 5, 1) ∧
    (after (step { sendState v2 [0xAA, 0x05, 0x03, 0x42, 0xF6] 0 with inputs := [.txPop] })).map (·.sent) =
      some [(0xAA, false)] := by decide +kernel
theorem test_tx_pop_last :
    (after (step { sendState v2 [0xAA, 0x05, 0x03, 0x42, 0xF6] 4 with inputs := [.txPop] })).map view =
      some (.recv, 0, false, 0, 0) ∧
    (after (step { sendState v2 [0xAA, 0x05, 0x03, 0x42, 0xF6] 4 with inputs := [.txPop] })).map (·.sent) =
      some [(0xF6, true)] := by decide +kernel
theorem test_reset_discards_a_response :
    (after (step { sendState v2 [0xAA, 0x09, 0x01, 0x00, 0x23, 0x18, 0x60, 0x86, 0x7A] 3 with
      inputs := [.reset] })).map view = some (.recv, 0, false, 0, 0) ∧
    (after (step { sendState v2 [0xAA, 0x09, 0x01, 0x00, 0x23, 0x18, 0x60, 0x86, 0x7A] 3 with
      inputs := [.reset] })).map (·.diags) = some [] := by decide +kernel
theorem test_diag_kind_numbers :
    diagKind (.ok 0x01) = 0 ∧ diagKind (.unknown 0x99) = 1 ∧ diagKind (.rejected .short) = 2 ∧
    diagKind (.rejected .sync) = 3 ∧ diagKind (.rejected (.crc 0xABE8 0)) = 4 ∧ diagKind (.rejected .overflow) = 5 := by
  decide

/-! ### Witnesses: for each statement that has hypotheses, values that meet them, each clause at its boundary -/

theorem witness_DecodeOfEncodedRequestIsTheRequest :
    paramsLegal (v2Min 2) = true ∧ paramsLegal (v2Rx 5) = true ∧ paramsLegal v1Unverified = true ∧
      paramsLegal (v2With movedCode) = true ∧ Request.wf constants ⟨.unknown 0xFF, 0xFF, []⟩ = true ∧
      Request.wf constants ⟨.queryBurst, 0x00, [0xAA]⟩ = true ∧
      Request.wf movedCode ⟨.unknown 0x03, 0x00, []⟩ = true := by decide

theorem witness_EncodeOfDecodedFrameIsTheFrame :
    paramsLegal v2 = true ∧ verifyRxCrc v2 = true ∧ 5 ≤ [0xAA, 0x00, 0x01, 0xE8, 0xAB].length ∧
      decodeFrame v2 [0xAA, 0x00, 0x01, 0xE8, 0xAB] = .ok ⟨.queryId, 0x00, []⟩ := by decide +kernel

/-- Boundary: two bytes, sealed and not. -/
theorem witness_ResidueTellsSealedSequences :
    2 ≤ [0x00#8, 0x00].length ∧ accBytes constants 0xFFFF [0x00, 0x00] = 0xF0B8 ∧
      2 ≤ [0x47#8, 0x0F].length ∧ accBytes constants 0xFFFF [0x47, 0x0F] ≠ 0xF0B8 := by decide +kernel

/-- First and last bit of a frame. -/
theorem witness_SingleBitMutationGetsNoResponse :
    paramsLegal v2 = true ∧ verifyRxCrc v2 = true ∧ v2.consts.polyReflected.getLsbD 15 = true ∧
    0 < (encodeRequest constants ⟨.queryId, 0x00, []⟩).length ∧
      4 < (encodeRequest constants ⟨.queryId, 0x00, []⟩).length ∧
      flipBit [0xAA, 0x00, 0x01, 0xE8, 0xAB] 0 0 = [0xAB, 0x00, 0x01, 0xE8, 0xAB] ∧
      flipBit [0xAA, 0x00, 0x01, 0xE8, 0xAB] 4 7 = [0xAA, 0x00, 0x01, 0xE8, 0x2B] := by decide +kernel

theorem witness_GuardStage_overflow :
    (procState v2 [0xAA] .guard).phase = .proc ∧
      { procState v2 [0xAA] .guard with rxovf := true }.rxovf = true := by decide
theorem witness_GuardStage_v1_short :
    (procState v1 [0xAA, 0x00, 0x01, 0xE8] .guard).rxovf = false ∧ v1.variant = .v1Early ∧
      (procState v1 [0xAA, 0x00, 0x01, 0xE8] .guard).rxlen < v1.consts.minLenV1 := by decide
theorem witness_GuardStage_v1_long :
    0 < (procState v1 [0xAA, 0x00, 0x01, 0xE8, 0xAB] .guard).rxlen ∧
      v1.consts.minLenV1 ≤ (procState v1 [0xAA, 0x00, 0x01, 0xE8, 0xAB] .guard).rxlen ∧ v1.consts.sync = 0xAA ∧
      (procState v1 [0xAA, 0x00, 0x01, 0xE8, 0xAB] .guard).rxbuf.get? 0 = some 0xAA ∧
      (procState v1 [0x55, 0x00, 0x01, 0xE8, 0xAB] .guard).rxbuf.get? 0 = some 0x55 := by decide
theorem witness_GuardStage_v2_empty :
    (procState v2 [] .guard).rxovf = false ∧ v2.variant = .v2Crc ∧ (procState v2 [] .guard).rxlen = 0 := by decide
theorem witness_GuardStage_v2_nonempty :
    0 < (procState v2 [0x55] .guard).rxlen ∧ (procState v2 [0x55] .guard).rxbuf.get? 0 = some 0x55 ∧
      (procState v2 [0xAA, 0, 0, 0] .guard).rxlen < v2.minLenV2 ∧
      ¬ (procState v2 [0xAA, 0, 0, 0, 0] .guard).rxlen < v2.minLenV2 := by decide

theorem witness_ExtractStage :
    2 ≤ (procState (v2Min 2) [0xAA, 0x00] .extract).rxlen ∧
      (procState (v2Min 2) [0xAA, 0x00] .extract).rxbuf.get? 0 = some 0xAA ∧
      (procState (v2Min 2) [0xAA, 0x00] .extract).rxbuf.get? 1 = some 0x00 := by decide

theorem holdsFrame_procState (p : Params) (st : Stage) : HoldsFrame (procState p [0xAA, 0x00] st) [0xAA, 0x00] := by
  refine ⟨rfl, ?_⟩
  show ∀ i, i < 2 → (Memory.ofBytesFrom 0 [0xAA, 0x00]).get? i = [0xAA, 0x00][i]?
  decide

/-- Boundary: a buffer of two bytes, in each of the three cases. -/
theorem witness_VerifyStage :
    HoldsFrame (procState (v2Min 2) [0xAA, 0x00] .verify) [0xAA, 0x00] ∧ verifyRxCrc (v2Min 2) = true ∧
      computeCrc constants [] = (procState (v2Min 2) [0xAA, 0x00] .verify).claimed ∧
      computeCrc constants [] ≠ { procState (v2Min 2) [0xAA, 0x00] .verify with claimed := 0x00AA }.claimed ∧
      verifyRxCrc v1Unverified = false ∧ HoldsFrame (procState v1Unverified [0xAA, 0x00] .verify) [0xAA, 0x00] :=
  ⟨holdsFrame_procState _ _, rfl, by decide, by decide, rfl, holdsFrame_procState _ _⟩

/-- Boundary: five bytes, verified and not, and a state at ST_VERIFY and ST_EXTRACT that does not verify. -/
theorem witness_EarlyVariantVerifiesByItsParameter :
    v1.variant = .v1Early ∧ v1.v1VerifyRxCrc = true ∧ paramsLegal v2 = true ∧ v1.consts = v2.consts ∧
    v2.variant = .v2Crc ∧
      5 ≤ [0xAA#8, 0x00, 0x01, 0x00, 0x00].length ∧ v1Unverified.variant = .v1Early ∧
      v1Unverified.v1VerifyRxCrc = false ∧ constantsLegal v1Unverified.consts = true ∧
      [0xAA#8, 0x00, 0x01, 0x00, 0x00][0]? = some v1Unverified.consts.sync ∧
      2 ≤ (procState v1Unverified [0xAA, 0x00] .extract).rxlen ∧
      (procState v1Unverified [0xAA, 0x00] .extract).rxbuf.get? 1 = some 0x00 := by decide

/-- Each cause at the boundary of its range, from 95 sections 2.4.1 and 2.7. -/
theorem witness_RejectionCauseIsThatOfTheFirstFailingCheck :
    (processEvent v2 true [0xAA, 0x00, 0x01, 0xE8, 0xAB]).diag = .rejected .overflow ∧
    (processEvent v1 false [0x55, 0x00, 0x01, 0xE8]).diag = .rejected .short ∧
    (processEvent v2 false []).diag = .rejected .short ∧
    (processEvent v2 false [0xAA, 0x00, 0x01, 0xE8]).diag = .rejected .short ∧
    (processEvent v1 false [0x55, 0x00, 0x01, 0xE8, 0xAB]).diag = .rejected .sync ∧
    (processEvent v2 false [0x55]).diag = .rejected .sync ∧
    (processEvent v2 false [0xAA, 0x00, 0x01, 0x47, 0x0F]).diag = .rejected (.crc 0xABE8 0x0F47) ∧
    (processEvent v1 false [0xAA, 0x00, 0x01, 0xE8, 0xAB]).diag = .ok 0x01 := by decide +kernel

theorem witness_DispatchStage :
    (procState (v2Min 2) [0xAA, 0x00] .dispatch).rxlen ≤ (v2Min 2).consts.cmdIndex ∧
      (v2Min 2).consts.cmdIndex < (procState (v2Min 2) [0xAA, 0x28, 0xFA] .dispatch).rxlen ∧
      (procState (v2Min 2) [0xAA, 0x28, 0xFA] .dispatch).rxbuf.get? (v2Min 2).consts.cmdIndex = some 0xFA ∧
      paramsLegal (v2Min 2) = true ∧ (v2Min 2).consts = constants ∧
      validateFrame (v2Min 2) [0xAA, 0x28, 0xFA] = none := by decide +kernel

/-- For QueryId, AbortTx, ApplyCfg, SendData, QueryBurst and Unknown: PROC, legal parameters with the given constants, both
variants. -/
theorem witness_Commands :
    (sealState v2 0x01).phase = .proc ∧ (sealState v1 0x99).phase = .proc ∧ (sealState v2 0x99).cfg.variant = .v2Crc ∧
      (sealState v1 0x99).cfg.variant = .v1Early ∧ paramsLegal v2 = true ∧ paramsLegal v1 = true ∧
      (sealState v2 0x01).cfg.consts = constants ∧ (sealState v1 0x99).cfg.consts = constants := by decide +kernel

/-- Boundary: the least length lets exactly the three bytes of the fallback through. -/
theorem witness_UnsealedFallbackFailsTheCrcCheck :
    (v2Min 3).consts = constants ∧ minLen (v2Min 3) ≤ 3 ∧ verifyRxCrc (v2Min 3) = true := by decide

/-- The given constants and others, a recognized command and an unknown one. -/
theorem witness_EveryCommandAnswersItsRow :
    (sealState (v2With movedCode) 0x02).phase = .proc ∧
      constantsLegal (sealState (v2With movedCode) 0x02).cfg.consts = true ∧
      rowOf movedCode .abortTx = some { code := 0x02, template := [0xAA, 0x05, 0x02] } ∧
      rowOf movedCode (.unknown 0x03) = none ∧ constantsLegal (sealState v2 0x01).cfg.consts = true := by decide +kernel

/-- Boundary: a template of seven bytes fills `TXBUF`. -/
theorem witness_SealingAppends :
    (sealState v2 0x01).phase = .proc ∧
      [0xAA#8, 0x09, 0x01, 0x00, 0x23, 0x18, 0x60].length + 2 ≤ (sealState v2 0x01).cfg.consts.txMax ∧
      ([] : List Byte).length + 2 ≤ (sealState v2 0x01).cfg.consts.txMax := by
  decide +kernel

theorem witness_CommandsLeaveEverythingElse :
    (after (exec .queryId (sealState v2 0x01))).isSome = true ∧
      (after (exec (.unknown 0x99) (sealState v2 0x99))).isSome = true ∧ (sealState v2 0x99).cfg.variant = .v2Crc := by
  decide +kernel

theorem witness_CommandsStopOutsideProc :
    State.reset.phase ≠ .proc ∧ (sendState v2 [0xAA, 0xFF, 0xFF] 0).phase ≠ .proc ∧
      constantsLegal State.reset.cfg.consts = true := by decide

theorem witness_ResponseDependsOnTheCodeAlone :
    validateFrame v2 [0xAA, 0x00, 0x01, 0xE8, 0xAB] = none ∧ validateFrame v2 [0xAA, 0xFF, 0x01, 0x28, 0x54] = none ∧
      [0xAA#8, 0x00, 0x01, 0xE8, 0xAB][2]? = some 0x01 ∧ [0xAA#8, 0xFF, 0x01, 0x28, 0x54][2]? = some 0x01 ∧
      (romRead constants (encodeCode constants .queryId)).1 = true ∧ paramsLegal v2 = true := by decide +kernel

theorem witness_ProcessCommandAgreesWithTheDecoder :
    paramsLegal v2 = true ∧ decodeFrame v2 [0x55] = .error .sync ∧
      decodeFrame v2 [0xAA, 0x00, 0x01, 0xE8, 0xAB] = .ok ⟨.queryId, 0x00, []⟩ := by decide +kernel

theorem witness_MalformedBuffersGetNoResponse :
    [0xAA#8, 0x00, 0x01, 0xE8].length < minLen v1 ∧ [0x55#8, 0x00, 0x01, 0xE8, 0xAB][0]? ≠ some 0xAA ∧
      verifyRxCrc v2 = true ∧
      claimedOf [0xAA, 0x00, 0x01, 0x00, 0x00] ≠
        some (computeCrc constants (coveredBytes [0xAA, 0x00, 0x01, 0x00, 0x00])) := by
  decide +kernel

/-- Boundary: the last free place, and the full buffer. -/
theorem witness_RxByte :
    (recvState (v2Rx 5) [0, 0, 0, 0]).phase = .recv ∧ (recvState (v2Rx 5) [0, 0, 0, 0]).rxlen < 5 ∧
      (v2Rx 5).rxMax = some 5 ∧ 5 ≤ (recvState (v2Rx 5) [0, 0, 0, 0, 0]).rxlen ∧ v2.rxMax = none := by decide

/-- The mark is set by a byte on a full buffer, and cleared by the end of the transaction and by a reset. -/
theorem witness_OverflowMarkIsSticky :
    (recvState (v2Rx 5) [0, 0, 0, 0, 0]).rxovf = false ∧
    (after (step { recvState (v2Rx 5) [0, 0, 0, 0, 0] with inputs := [.rxByte 0x7A] })).map (·.rxovf) = some true ∧
    (after (step { procState (v2Rx 5) [0, 0, 0, 0, 0] .guard with rxovf := true })).map (·.rxovf) = some false ∧
    (after (step { recvState (v2Rx 5) [0, 0, 0, 0, 0] with rxovf := true, inputs := [.reset] })).map (·.rxovf) =
      some false := by decide +kernel

theorem witness_RxEnd :
    { State.reset with inputs := [HostOp.rxEnd] }.phase = .recv ∧
      { State.reset with inputs := [HostOp.rxEnd] }.inputs = [.rxEnd] := by decide

/-- Boundary: the first byte and the last byte. -/
theorem witness_TxPop :
    (sendState v2 [0xAA, 0xFF, 0xFF] 0).txptr < (sendState v2 [0xAA, 0xFF, 0xFF] 0).txlen ∧
      (sendState v2 [0xAA, 0xFF, 0xFF] 0).txbuf.get? 0 = some 0xAA ∧
      (sendState v2 [0xAA, 0xFF, 0xFF] 2).txptr = (sendState v2 [0xAA, 0xFF, 0xFF] 2).txlen - 1 ∧
      (sendState v2 [0xAA, 0xFF, 0xFF] 2).txbuf.get? 2 = some 0xFF := by decide

theorem witness_Reset :
    { sealState v2 0x01 with inputs := [HostOp.reset] }.inputs = .reset :: [] := by decide +kernel

theorem witness_HeldOperations :
    (sendState v2 [0xAA, 0xFF, 0xFF] 0).phase = .send ∧ State.reset.phase = .recv ∧
      { State.reset with inputs := [HostOp.txPop] }.inputs = .txPop :: [] ∧ (procState v2 [] .guard).phase = .proc ∧
      { procState v2 [] .guard with inputs := [HostOp.rxEnd] }.inputs = .rxEnd :: [] ∧
      { sendState v2 [0xAA, 0xFF, 0xFF] 0 with inputs := [HostOp.rxByte 0x00] }.inputs = .rxByte 0x00 :: [] ∧
      (sendState v2 [0xAA, 0xFF, 0xFF] 0).phase ≠ .recv ∧ (procState v2 [] .guard).phase ≠ .send ∧
      State.reset.inputs = [] ∧ State.reset.phase ≠ .proc := by decide

theorem witness_Strap :
    { State.reset with inputs := [HostOp.strap true] }.inputs = .strap true :: [] ∧ State.reset.phase ≠ .proc ∧
      (procState v2 [] .guard).phase = .proc := by decide

theorem witness_Pins :
    (sendState v2 [0xAA, 0xFF, 0xFF] 2).phase = .send ∧
      (sendState v2 [0xAA, 0xFF, 0xFF] 2).txptr < (sendState v2 [0xAA, 0xFF, 0xFF] 2).txlen ∧
      (sendState v2 [0xAA, 0xFF, 0xFF] 2).txbuf.get? 2 = some 0xFF := by decide

/-- Silent, held, and waiting. -/
theorem witness_StepRunsTheDecodedCommand :
    (sealState v2 0x01).phase = .proc ∧ (sealState v2 0x01).stage = .sealing ∧ HostHeldOrSilent (sealState v2 0x01) ∧
      HostHeldOrSilent { sealState v2 0x01 with inputs := [.txPop] } ∧
      { sealState v2 0x01 with inputs := [HostOp.wait] }.inputs = .wait :: [] :=
  ⟨rfl, rfl, .inl rfl, .inr ⟨.txPop, [], rfl, rfl⟩, rfl⟩

/-- The frame `AA 00 01 E8 AB`, received, at ST_GUARD. -/
theorem holdsFrame_query (st : Stage) :
    HoldsFrame (procState v2 [0xAA, 0x00, 0x01, 0xE8, 0xAB] st) [0xAA, 0x00, 0x01, 0xE8, 0xAB] := by
  refine ⟨rfl, ?_⟩
  show ∀ i, i < 5 → (Memory.ofBytesFrom 0 [0xAA, 0x00, 0x01, 0xE8, 0xAB]).get? i = [0xAA, 0x00, 0x01, 0xE8, 0xAB][i]?
  decide

/-- Also for TransactionComputesProcessCommand. -/
theorem witness_DecodedFrameReachesItsCommand :
    (procState v2 [0xAA, 0x00, 0x01, 0xE8, 0xAB] .guard).phase = .proc ∧
      (procState v2 [0xAA, 0x00, 0x01, 0xE8, 0xAB] .guard).stage = .guard ∧
      (procState v2 [0xAA, 0x00, 0x01, 0xE8, 0xAB] .guard).rxovf = false ∧
      HoldsFrame (procState v2 [0xAA, 0x00, 0x01, 0xE8, 0xAB] .guard) [0xAA, 0x00, 0x01, 0xE8, 0xAB] ∧
      paramsLegal v2 = true ∧ HostHeldOrSilent (procState v2 [0xAA, 0x00, 0x01, 0xE8, 0xAB] .guard) ∧
      decodeFrame v2 [0xAA, 0x00, 0x01, 0xE8, 0xAB] = .ok ⟨.queryId, 0x00, []⟩ :=
  ⟨rfl, rfl, rfl, holdsFrame_query _, rfl, .inl rfl, by decide +kernel⟩

/-- A transaction without and with a response. -/
theorem witness_TransactionComputesProcessCommand :
    (processEvent v2 true [0xAA, 0x00, 0x01, 0xE8, 0xAB]).response = none ∧
      (processEvent v2 false [0xAA, 0x00, 0x01, 0xE8, 0xAB]).response =
        some [0xAA, 0x09, 0x01, 0x00, 0x23, 0x18, 0x60, 0x86, 0x7A] := by decide +kernel

/-- Steps that stay in PROC, and steps that leave it. For StageOnlyMovesForward and OneEventPerTransaction. -/
theorem witness_StepsInProc :
    (after (step (procState v2 [0xAA, 0x00, 0x01, 0xE8, 0xAB] .guard))).map (·.phase) = some .proc ∧
      (after (step (procState v2 [] .guard))).map (·.phase) = some .recv ∧
      (after (step (sealState v2 0x01))).map (·.phase) = some .send ∧
      (after (step { sealState v2 0x01 with inputs := [.reset] })).map (·.phase) = some .recv ∧
      (after (step State.reset)).map (·.phase) = some .recv := by decide +kernel

/-- A step that keeps the configuration, and one that changes it. -/
theorem witness_ConfigurationChangesOnlyByTheStrap :
    (after (step State.reset)).map (·.cfg) = some v2 ∧
      (after (step { State.reset with inputs := [.strap true] })).map (·.cfg) = some v1 := by decide +kernel

/-- The invariant in RECV, in PROC past ST_GUARD, and in SEND with one byte left. -/
theorem inv_recv : Inv (recvState (v2Rx 5) [0xAA, 0x00, 0x01, 0xE8, 0xAB]) :=
  ⟨rfl, rfl, rfl, by unfold Filled; decide, rfl, by decide, rfl, ⟨rfl, rfl, rfl⟩⟩
theorem inv_proc : Inv (procState (v2Rx 5) [0xAA, 0x00, 0x01, 0xE8, 0xAB] .verify) :=
  ⟨rfl, rfl, rfl, by unfold Filled; decide, rfl, by decide, rfl, ⟨by decide, rfl, rfl, fun _ => ⟨rfl, by decide⟩⟩⟩
theorem inv_send : Inv (sendState v2 [0xAA, 0xFF, 0xFF] 2) :=
  ⟨rfl, rfl, rfl, by unfold Filled; decide, rfl, by decide, rfl,
    ⟨rfl, rfl, rfl, by decide, by decide, by decide, by unfold Filled; decide⟩⟩

theorem witness_EveryStepKeepsTheInvariant :
    Inv (sendState v2 [0xAA, 0xFF, 0xFF] 2) ∧
      (after (step { sendState v2 [0xAA, 0xFF, 0xFF] 2 with inputs := [.txPop] })).isSome = true ∧
      Inv (procState (v2Rx 5) [0xAA, 0x00, 0x01, 0xE8, 0xAB] .verify) ∧
      (after (step (procState (v2Rx 5) [0xAA, 0x00, 0x01, 0xE8, 0xAB] .verify))).isSome = true :=
  ⟨inv_send, by decide +kernel, inv_proc, by decide +kernel⟩

theorem witness_NoInputStopsTheBlock :
    Inv (procState (v2Rx 5) [0xAA, 0x00, 0x01, 0xE8, 0xAB] .verify) ∧
      StrapStable (procState (v2Rx 5) [0xAA, 0x00, 0x01, 0xE8, 0xAB] .verify) ∧
      StrapStable { State.reset with inputs := [.strap true] } :=
  ⟨inv_proc, (fun _ _ _ h => by cases h), fun h => by cases h⟩

theorem witness_EveryTransactionEnds :
    Inv (procState (v2Rx 5) [0xAA, 0x00, 0x01, 0xE8, 0xAB] .verify) ∧
      (procState (v2Rx 5) [0xAA, 0x00, 0x01, 0xE8, 0xAB] .verify).phase = .proc ∧
      HostHeldOrSilent (procState (v2Rx 5) [0xAA, 0x00, 0x01, 0xE8, 0xAB] .verify) :=
  ⟨inv_proc, rfl, .inl rfl⟩

/-- The last pop, from a state that meets the invariant, comes back to RECV; so does a rejection. -/
theorem witness_EveryReturnToRecvIsIdle :
    Inv { sendState v2 [0xAA, 0xFF, 0xFF] 2 with inputs := [.txPop] } ∧
      (after (step { sendState v2 [0xAA, 0xFF, 0xFF] 2 with inputs := [.txPop] })).map (·.phase) = some .recv ∧
      (after (step { procState (v2Rx 5) [0xAA, 0x00, 0x01, 0xE8, 0xAB] .verify with claimed := 0 })).map (·.phase) =
        some .recv :=
  ⟨⟨inv_send.1, inv_send.2, inv_send.3, inv_send.4, inv_send.5, inv_send.6, inv_send.7, inv_send.8⟩, by decide +kernel,
    by decide +kernel⟩

/-- Two states that differ in every register the statement leaves out. -/
theorem witness_DeadRegistersAreNeverRead :
    LiveAgree State.reset
        { State.reset with acc := 1, claimed := 2, computed := 3, cmd := 4, idx := 5, fresh := 6, rxbuf := [(0, 7)],
                           txbuf := [(0, 8)] } ∧
      SameOutputs State.reset { State.reset with acc := 1, claimed := 2, computed := 3, cmd := 4, idx := 5, fresh := 6 } ∧
      (after (step State.reset)).isSome = true :=
  ⟨⟨rfl, rfl, rfl, rfl, rfl, rfl, rfl, rfl, fun _ h => absurd h (Nat.not_lt_zero _), (fun h => by cases h),
    (fun h => by cases h), fun h => by cases h⟩, ⟨rfl, rfl⟩, by decide +kernel⟩

/-- A buffer that fits exactly, and one that does not. -/
theorem witness_SubmitAndDrainGivesProcessCommand :
    Idle { State.reset with cfg := v2Rx 5 } ∧ paramsLegal (v2Rx 5) = true ∧ rxFits (v2Rx 5) 5 = true ∧
      rxFits (v2Rx 5) 6 = false :=
  ⟨⟨rfl, rfl, rfl, rfl, rfl, rfl⟩, rfl, rfl, rfl⟩

end Sys2Proof.Tests
end

/-! PROOFS. What a command answers with, tied to its row of the Response Table (30_encoding R50, 42_command_mux R101, R102). -/

section

namespace Sys2Proof.Proofs

open Sys2Proof.Machine Sys2Proof.Safety Sys2Proof.Laws

/-! ### The row of a command -/

/-- The row of a command stands in the table under the command's code. -/
theorem rowOf_mem_tableRows {k : Constants} {i : Instr} {row : ResponseRow} (h : rowOf k i = some row) :
    row ∈ tableRows k ∧ row.code = encodeCode k i := by
  cases i with
  | unknown c => exact absurd h (by simp [rowOf])
  | _ =>
    obtain rfl := Option.some.inj h
    exact ⟨by simp [tableRows], rfl⟩

/-- Legal constants: the ROM gives each row of the table its own template, since no two rows share a code (30_encoding R53). -/
theorem romRead_row {k : Constants} (hk : constantsLegal k = true) {row : ResponseRow} (hr : row ∈ tableRows k) :
    romRead k row.code = (true, row.template) := by
  unfold romRead
  split
  next r hfind =>
    have hcode : r.code = row.code := by simpa using List.find?_some hfind
    have hrow : r = row := List.inj_on_of_nodup_map (codes_nodup hk) (List.mem_of_find?_eq_some hfind) hr hcode
    rw [hrow]
  next hnone => exact absurd (List.find?_eq_none.1 hnone row hr) (by simp)

/-- A command that has a row answers its template, sealed, and reports its code. -/
theorem answer_of_rowOf {p : Params} (hk : constantsLegal p.consts = true) {i : Instr} {row : ResponseRow}
    (h : rowOf p.consts i = some row) :
    responseBytes p.consts (templateOf p.consts i) (sealedFor p i) = sealBytes p.consts row.template ∧
      diagFor p.consts i = .ok row.code := by
  obtain ⟨hmem, hcode⟩ := rowOf_mem_tableRows h
  have hrom : (romRead p.consts (encodeCode p.consts i)).2 = row.template := by rw [← hcode, romRead_row hk hmem]
  cases i with
  | unknown c => exact absurd h (by simp [rowOf])
  | _ => exact ⟨congrArg (sealBytes p.consts) hrom, congrArg Diag.ok hcode.symm⟩

/-! ### The state ST_SEAL ends in -/

/-- The response lies in `TXBUF` from index 0 (42_command_mux R102). -/
theorem answeredState_txbuf (template : List Byte) (sealed : Bool) (d : Diag) (s : State) :
    (answeredState template sealed d s).txbuf =
      writeBytes s.txbuf 0 (responseBytes s.cfg.consts template sealed) := rfl

theorem answeredState_diags (template : List Byte) (sealed : Bool) (d : Diag) (s : State) :
    (answeredState template sealed d s).diags = s.diags ++ [d] := by
  cases sealed <;> rfl

/-- ST_SEAL leaves its response waiting, with one event more (43_port_operations R118). -/
theorem answered_answeredState (template : List Byte) (sealed : Bool) (d : Diag) (s : State) :
    Answered s (answeredState template sealed d s) (responseBytes s.cfg.consts template sealed) d := by
  refine ⟨rfl, rfl, rfl, rfl, rfl, rfl, answeredState_diags template sealed d s, fun i hi => ?_⟩
  rw [answeredState_txbuf, get_writeBytes, if_pos ⟨Nat.zero_le i, by omega⟩, Nat.sub_zero]

/-- In PROC under legal constants a command's own response waits and its own event was emitted. -/
theorem exec_answered (i : Instr) {s : State} (hp : s.phase = .proc) (hk : constantsLegal s.cfg.consts = true) :
    ∃ t, exec i s = .next t ∧
      Answered s t (responseBytes s.cfg.consts (templateOf s.cfg.consts i) (sealedFor s.cfg i))
        (diagFor s.cfg.consts i) :=
  ⟨_, exec_ok i hp hk, answered_answeredState ..⟩

/-! ### O29 -/

/-- Settles O29: every command completes with its own template, and distinct codes make the ROM's entry for a recognized
code the command's row. -/
theorem everyCommandAnswersItsRow : Obligations.EveryCommandAnswersItsRow := by
  unfold Obligations.EveryCommandAnswersItsRow
  intro i s hp hk
  obtain ⟨t, hexec, hans⟩ := exec_answered i hp hk
  refine ⟨t, hexec, fun row hrow => ?_, fun c hc => ?_⟩
  · obtain ⟨hresp, hdiag⟩ := answer_of_rowOf hk hrow
    rwa [hresp, hdiag] at hans
  · subst hc
    exact hans

end Sys2Proof.Proofs

end

/-! PROOFS. What a step can do, as the cases of one inductive predicate, and what every step keeps (10_state R13 to R22). -/

section

namespace Sys2Proof.Proofs

open Sys2Proof.Machine Sys2Proof.Safety Sys2Proof.Laws

/-! ### The cases of a stage -/

/-- The engine's own registers after a stage: `ACC`, `COMPUTED` and `IDX` (10_state R11, R12, R16). -/
def setScratch (a w : Word) (n : Nat) (s : State) : State :=
  setComputed w (setIdx n (setAcc a s))

/-- The values a stage can leave in `IDX`: the old one, one within the buffer (ST_VERIFY), or the length of a template
(ST_SEAL). -/
def IndexReached (s : State) (n : Nat) : Prop :=
  n = s.idx ∨ n ≤ s.rxlen ∨ ∃ template ∈ templates s.cfg.consts, n = template.length

/-- The states one stage can end in (43_port_operations R118): the next stage, a rejection, or a waiting response. -/
inductive StageCase (s : State) : State → Prop
  | guardPasses : s.stage = .guard → s.rxovf = false → minLen s.cfg ≤ s.rxlen → StageCase s (setStage .extract s)
  | extractPasses (w : Word) : s.stage = .extract → StageCase s (setStage .verify (setClaimed w s))
  | verifyPasses (a w : Word) (n : Nat) : s.stage = .verify → IndexReached s n →
      StageCase s (setStage .dispatch (setScratch a w n s))
  | dispatchPasses (c : Byte) : s.stage = .dispatch → StageCase s (setStage .sealing (setCmd c s))
  | rejects (c : Cause) (a w : Word) (n : Nat) : IndexReached s n → StageCase s (reject c (setScratch a w n s))
  | answers (resp : List Byte) (d : Diag) (a w : Word) (n : Nat) : IndexReached s n →
      (constantsLegal s.cfg.consts = true → 3 ≤ resp.length ∧ resp.length ≤ s.cfg.consts.txMax) →
      StageCase s (finishAnswer resp.length d (setTxbuf (writeBytes s.txbuf 0 resp) (setScratch a w n s)))

variable {s t : State}

/-- A rejection that leaves the engine's registers as they are. -/
theorem stageCase_reject (c : Cause) (s : State) : StageCase s (reject c s) :=
  .rejects c s.acc s.computed s.idx (.inl rfl)

/-- A response of legal constants has 3 bytes or more (10_state R14). -/
theorem three_le_response (i : Instr) {p : Params} (h : constantsLegal p.consts = true) :
    3 ≤ (responseBytes p.consts (templateOf p.consts i) (sealedFor p i)).length := by
  have hlen := (templateOf_length h i).1
  unfold responseBytes
  split
  · rw [sealBytes_length]
    omega
  · exact hlen

/-- ST_SEAL ends with its response waiting; the engine's registers have moved where it seals (42_command_mux R102). -/
theorem answeredState_eq (template : List Byte) (sealed : Bool) (d : Diag) (s : State) :
    ∃ a n, (n = s.idx ∨ n = template.length) ∧
      answeredState template sealed d s =
        finishAnswer (responseBytes s.cfg.consts template sealed).length d
          (setTxbuf (writeBytes s.txbuf 0 (responseBytes s.cfg.consts template sealed))
            (setScratch a s.computed n s)) := by
  cases sealed with
  | false => exact ⟨s.acc, s.idx, .inl rfl, rfl⟩
  | true => exact ⟨accBytes s.cfg.consts s.cfg.consts.crcInit template, template.length, .inr rfl, rfl⟩

/-- Every command ends in the answering case. -/
theorem stageCase_exec {i : Instr} (h : exec i s = .next t) : StageCase s t := by
  obtain ⟨rfl, -⟩ := exec_next h
  obtain ⟨a, n, hn, heq⟩ :=
    answeredState_eq (templateOf s.cfg.consts i) (sealedFor s.cfg i) (diagFor s.cfg.consts i) s
  have hreached : IndexReached s n := hn.imp_right fun hlen => .inr ⟨_, templateOf_mem _ i, hlen⟩
  rw [heq]
  exact .answers _ _ a _ n hreached fun hk => ⟨three_le_response i hk, response_fits i hk⟩

/-- Everything a stage can do. -/
theorem runStage_cases (h : runStage s = .next t) : StageCase s t := by
  unfold runStage at h
  split at h
  next => exact absurd h (by simp)
  next hst =>
    obtain ⟨-, rfl⟩ | ⟨hovf, first, -, ⟨c, -, rfl⟩ | ⟨hcause, rfl⟩⟩ := stageGuard_next h
    · exact stageCase_reject _ s
    · exact stageCase_reject c s
    · exact .guardPasses hst hovf (guardCause_none hcause).1
  next hst =>
    obtain ⟨-, -, low, high, -, -, rfl⟩ := stageExtract_next h
    exact .extractPasses _ hst
  next hst =>
    obtain ⟨-, rfl⟩ | ⟨-, bs, hlen, -, -, ⟨-, rfl⟩ | ⟨-, rfl⟩⟩ := stageVerify_next h
    · exact .verifyPasses s.acc s.computed s.idx hst (.inl rfl)
    · exact .rejects _ _ _ _ (.inr (.inl (by omega)))
    · exact .verifyPasses _ _ _ hst (.inr (.inl (by omega)))
  next hst =>
    obtain ⟨-, rfl⟩ | ⟨-, -, c, -, rfl⟩ := stageDispatch_next h
    · exact stageCase_reject _ s
    · exact .dispatchPasses c hst
  next => exact stageCase_exec h

/-! ### The cases of a step -/

/-- The states one step can end in: the block's own (a stage in PROC, otherwise nothing but the queue), or the effect of an
enabled operation of the host (43_port_operations R116 to R122, 70_reset R158). -/
inductive StepCase (s : State) : State → Prop
  | waits (l : List HostOp) : s.phase ≠ .proc → StepCase s (setInputs l s)
  | stage (l : List HostOp) {t : State} : s.phase = .proc → StageCase (setInputs l s) t → StepCase s t
  | receives (b : Byte) (rest : List HostOp) : s.phase = .recv → rxHasRoom s.cfg s.rxlen = true →
      StepCase s { setInputs rest s with rxbuf := s.rxbuf.set s.rxlen b, rxlen := s.rxlen + 1 }
  | overflows (b : Byte) (rest : List HostOp) : s.inputs = .rxByte b :: rest → s.phase = .recv →
      rxHasRoom s.cfg s.rxlen = false → StepCase s { setInputs rest s with rxovf := true }
  | begins (rest : List HostOp) : s.phase = .recv →
      StepCase s { setInputs rest s with phase := .proc, stage := .guard }
  | pops (b : Byte) (rest : List HostOp) : s.phase = .send → s.txptr < s.txlen → s.txptr ≠ s.txlen - 1 →
      StepCase s { setInputs rest s with sent := s.sent ++ [(b, false)], txptr := s.txptr + 1 }
  | popsLast (b : Byte) (rest : List HostOp) : s.phase = .send →
      StepCase s { setInputs rest s with sent := s.sent ++ [(b, true)], txlen := 0, txptr := 0, phase := .recv }
  | resets (rest : List HostOp) : s.inputs = .reset :: rest → StepCase s (resetBlock (setInputs rest s))
  | straps (pin : Bool) (rest : List HostOp) : s.inputs = .strap pin :: rest → s.phase ≠ .proc →
      StepCase s { setInputs rest s with cfg := { s.cfg with variant := variantOfPin pin } }

/-- The strap changes the variant outside PROC (70_reset R158). -/
theorem opStrap_next {pin : Bool} (h : opStrap pin s = .next t) :
    s.phase ≠ .proc ∧ t = { s with cfg := { s.cfg with variant := variantOfPin pin } } := by
  unfold opStrap at h
  split at h
  next => exact absurd h (by simp)
  next hp => exact ⟨hp, (Host.Outcome.next.inj h).symm⟩

/-- The block by itself runs a stage or waits, whatever is left in the queue. -/
theorem advance_cases {l : List HostOp} (h : advance (setInputs l s) = .next t) : StepCase s t := by
  obtain ⟨hp, hrun⟩ | ⟨hp, rfl⟩ := advance_next h
  · exact .stage l hp (runStage_cases hrun)
  · exact .waits l hp

/-- Everything an enabled operation of the host can do. -/
theorem perform_cases {op : HostOp} {rest : List HostOp} (hi : s.inputs = op :: rest)
    (he : opEnabled op s.phase = true) (h : perform op (setInputs rest s) = .next t) : StepCase s t := by
  cases op with
  | rxByte b =>
    obtain ⟨hroom, hp, rfl⟩ | ⟨hfull, rfl⟩ := opRxByte_next h
    · exact .receives b rest hp hroom
    · exact .overflows b rest hi (by simpa [opEnabled] using he) hfull
  | rxEnd =>
    obtain rfl := Host.Outcome.next.inj h
    exact .begins rest (by simpa [opEnabled] using he)
  | txPop =>
    obtain ⟨hp, hlt, b, -, ⟨-, rfl⟩ | ⟨hne, rfl⟩⟩ := opTxPop_next h
    · exact .popsLast b rest hp
    · exact .pops b rest hp hlt hne
  | reset =>
    obtain rfl := Host.Outcome.next.inj h
    exact .resets rest hi
  | strap pin =>
    obtain ⟨hp, rfl⟩ := opStrap_next h
    exact .straps pin rest hi hp
  | wait => exact advance_cases h

/-- Everything a step can do. -/
theorem step_cases (h : step s = .next t) : StepCase s t := by
  obtain ⟨-, hadv⟩ | ⟨op, rest, hi, he, hop⟩ := step_next h
  · exact advance_cases (l := s.inputs) hadv
  · exact perform_cases hi he hop

/-! ### How a stage moves on or ends -/

/-- A rejection gives the idle state (60_exceptions R137). -/
theorem idle_reject (c : Cause) (s : State) : Idle (reject c s) :=
  ⟨rfl, rfl, rfl, rfl, rfl, rfl⟩

/-- A reset gives the idle state (70_reset R150). -/
theorem idle_resetBlock (s : State) : Idle (resetBlock s) :=
  ⟨rfl, rfl, rfl, rfl, rfl, rfl⟩

/-- A stage keeps the configuration (10_state R18). -/
theorem stageCase_cfg (h : StageCase s t) : t.cfg = s.cfg := by
  cases h <;> rfl

/-- A stage passes to the next one, or ends the transaction in ST_IDLE with the overflow mark clear (10_state R16, R17);
where that leads to RECV, it is the idle state (R22). -/
theorem stageCase_moves_or_ends (h : StageCase s t) :
    (t.phase = s.phase ∧ t.stage = stageAfter s.stage ∧ t.stage ≠ .idle ∧ t.rxovf = s.rxovf) ∨
      t.phase ≠ .proc ∧ t.stage = .idle ∧ t.rxovf = false ∧ (t.phase = .recv → Idle t) := by
  cases h with
  | guardPasses hst | extractPasses w hst | verifyPasses a w n hst | dispatchPasses c hst =>
    exact .inl ⟨rfl, by rw [hst]; rfl, nofun, rfl⟩
  | rejects => exact .inr ⟨nofun, rfl, rfl, fun _ => idle_reject _ _⟩
  | answers => exact .inr ⟨nofun, rfl, rfl, nofun⟩

/-! ### O3 -/

/-- Settles O3: the ROM is a chain of comparisons with the codes of the given table. -/
theorem romHoldsTheResponseTable : Obligations.RomHoldsTheResponseTable := by
  unfold Obligations.RomHoldsTheResponseTable
  exact romRead_eq

/-! ### O46 and O48 -/

/-- Settles O46: a stage passes to the next one or ends in ST_IDLE, and of the host's operations only a reset leaves PROC. -/
theorem stageOnlyMovesForward : Obligations.StageOnlyMovesForward := by
  unfold Obligations.StageOnlyMovesForward
  intro s t hproc hstep
  cases step_cases hstep with
  | stage l _ hst =>
    obtain ⟨hph, hnext, hne, -⟩ | ⟨hleft, hidle, -⟩ := stageCase_moves_or_ends hst
    · exact ⟨fun _ => ⟨hnext, hne⟩, fun hleft => absurd (hph.trans hproc) hleft⟩
    · exact ⟨fun hin => absurd hin hleft, fun _ => hidle⟩
  | resets => exact ⟨nofun, fun _ => rfl⟩
  | waits l hp | straps pin rest hi hp => exact absurd hproc hp
  | receives b rest hp | overflows b rest hi hp | begins rest hp | pops b rest hp | popsLast b rest hp =>
    exact absurd (hproc.symm.trans hp) nofun

/-- Settles O48: no stage writes the configuration, and of the host's operations the strap alone does. -/
theorem configurationChangesOnlyByTheStrap : Obligations.ConfigurationChangesOnlyByTheStrap := by
  unfold Obligations.ConfigurationChangesOnlyByTheStrap
  intro s t hstep
  cases step_cases hstep with
  | stage l _ hst =>
    have hcfg := stageCase_cfg hst
    exact .inl hcfg
  | straps pin rest hi hp => exact .inr ⟨pin, rest, hi, hp, rfl⟩
  | _ => exact .inl rfl

/-! ### O40 -/

/-- A bounded buffer without room is full (43_port_operations R116). -/
theorem rxHasRoom_eq_false {p : Params} {n : Nat} : rxHasRoom p n = false ↔ ∃ m, p.rxMax = some m ∧ m ≤ n := by
  unfold rxHasRoom
  cases p.rxMax <;> simp

/-- Only RX_BYTE on a full buffer sets the overflow mark. -/
theorem stepCase_sets_rxovf (h : StepCase s t) (hs : s.rxovf = false) (ht : t.rxovf = true) :
    ∃ b rest m, s.inputs = .rxByte b :: rest ∧ s.phase = .recv ∧ s.cfg.rxMax = some m ∧ m ≤ s.rxlen := by
  cases h with
  | overflows b rest hi hp hfull =>
    obtain ⟨m, hm, hle⟩ := rxHasRoom_eq_false.1 hfull
    exact ⟨b, rest, m, hi, hp, hm, hle⟩
  | stage l _ hst =>
    obtain ⟨-, -, -, hkept⟩ | ⟨-, -, hclear, -⟩ := stageCase_moves_or_ends hst
    · exact absurd (ht.symm.trans (hkept.trans hs)) nofun
    · exact absurd (ht.symm.trans hclear) nofun
  | resets => exact absurd ht nofun
  | waits | receives | begins | pops | popsLast | straps => exact absurd (ht.symm.trans hs) nofun

/-- Only the end of a transaction or a reset clears the overflow mark. -/
theorem stepCase_clears_rxovf (h : StepCase s t) (hs : s.rxovf = true) (ht : t.rxovf = false) :
    s.phase = .proc ∧ t.phase ≠ .proc ∨ ∃ rest, s.inputs = .reset :: rest := by
  cases h with
  | stage l hp hst =>
    obtain ⟨-, -, -, hkept⟩ | ⟨hleft, -⟩ := stageCase_moves_or_ends hst
    · exact absurd (ht.symm.trans (hkept.trans hs)) nofun
    · exact .inl ⟨hp, hleft⟩
  | resets rest hi => exact .inr ⟨rest, hi⟩
  | overflows => exact absurd ht nofun
  | waits | receives | begins | pops | popsLast | straps => exact absurd (ht.symm.trans hs) nofun

/-- A step out of PROC leaves the overflow mark clear. -/
theorem stepCase_ends_without_rxovf (h : StepCase s t) (hs : s.phase = .proc) (ht : t.phase ≠ .proc) :
    t.rxovf = false := by
  cases h with
  | stage l _ hst =>
    obtain ⟨hph, -⟩ | ⟨-, -, hclear, -⟩ := stageCase_moves_or_ends hst
    · exact absurd (hph.trans hs) ht
    · exact hclear
  | resets => rfl
  | waits l hp | straps pin rest hi hp => exact absurd hs hp
  | receives b rest hp | overflows b rest hi hp | begins rest hp | pops b rest hp | popsLast b rest hp =>
    exact absurd (hs.symm.trans hp) nofun

/-- Settles O40: over the cases of a step, the mark is set by the overflowing byte and cleared by an end or a reset. -/
theorem overflowMarkIsSticky : Obligations.OverflowMarkIsSticky := by
  unfold Obligations.OverflowMarkIsSticky
  intro s t hstep
  have hcase := step_cases hstep
  exact ⟨stepCase_sets_rxovf hcase, stepCase_clears_rxovf hcase, stepCase_ends_without_rxovf hcase⟩

/-! ### O54 -/

theorem phaseOk_recv (hp : s.phase = .recv) : PhaseOk s ↔ RecvOk s := by
  simp [PhaseOk, hp]

theorem phaseOk_proc (hp : s.phase = .proc) : PhaseOk s ↔ ProcOk s := by
  simp [PhaseOk, hp]

theorem phaseOk_send (hp : s.phase = .send) : PhaseOk s ↔ SendOk s := by
  simp [PhaseOk, hp]

/-- Settles O54: a reset and a rejection give the idle state, and what the invariant says in SEND makes the last pop give
it. -/
theorem everyReturnToRecvIsIdle : Obligations.EveryReturnToRecvIsIdle := by
  unfold Obligations.EveryReturnToRecvIsIdle
  intro s t hinv hstep hleft hrecv
  cases step_cases hstep with
  | stage l hp hst =>
    obtain ⟨hph, -⟩ | ⟨-, -, -, hidle⟩ := stageCase_moves_or_ends hst
    · exact absurd (hrecv.symm.trans (hph.trans hp)) nofun
    · exact hidle hrecv
  | popsLast b rest hp =>
    obtain ⟨hstage, hrxlen, hrxovf, -⟩ := (phaseOk_send hp).1 hinv.phaseOk
    exact ⟨rfl, hstage, hrxlen, hrxovf, rfl, rfl⟩
  | resets => exact idle_resetBlock _
  | begins => exact absurd hrecv nofun
  | waits | receives | overflows | pops | straps => exact absurd hrecv hleft

/-! ### O51 -/

@[simp] theorem rxFits_zero (p : Params) : rxFits p 0 = true := by
  unfold rxFits
  split <;> simp

/-- A buffer with room holds one byte more (20_memory R37). -/
theorem rxFits_succ {p : Params} {n : Nat} (h : rxHasRoom p n = true) : rxFits p (n + 1) = true := by
  unfold rxFits
  cases hm : p.rxMax with
  | none => rfl
  | some m =>
    have hn : n < m := by simpa [rxHasRoom, hm] using h
    exact decide_eq_true hn

/-- What fits in `RXBUF` fits the width of `IDX` (10_state R16). -/
theorem fitsIndexWidth_of_rxFits {p : Params} {n k : Nat} (h : rxFits p k = true) (hn : n ≤ k) :
    fitsIndexWidth p n = true := by
  unfold rxFits at h
  unfold fitsIndexWidth
  cases hm : p.rxMax with
  | none => rfl
  | some m =>
    have hk : k ≤ m := by simpa [hm] using h
    exact decide_eq_true (lt_of_le_of_lt (hn.trans hk) Nat.lt_log2_self)

theorem fitsIndexWidth_cut (p : Params) (n : Nat) : fitsIndexWidth p (cutToIndexWidth p n) = true := by
  unfold fitsIndexWidth cutToIndexWidth
  cases p.rxMax with
  | none => rfl
  | some m => exact decide_eq_true (Nat.mod_lt n (Nat.two_pow_pos _))

/-- Whatever a stage leaves in `IDX` fits its width (10_state R16). -/
theorem fitsIndexWidth_of_indexReached {n : Nat} (h : Inv s) (hn : IndexReached s n) :
    fitsIndexWidth s.cfg n = true := by
  obtain rfl | hle | ⟨template, hmem, rfl⟩ := hn
  · exact h.idxWidth
  · exact fitsIndexWidth_of_rxFits h.rxCapacity hle
  · obtain ⟨-, -, -, -, htemplates⟩ := (paramsLegal_iff _).1 h.legal
    exact htemplates template hmem

theorem filled_zero (m : Memory) : Filled m 0 :=
  fun _ hi => absurd hi (Nat.not_lt_zero _)

/-- A write at the end of the filled part makes it one longer. -/
theorem filled_set {m : Memory} {n : Nat} (b : Byte) (h : Filled m n) : Filled (m.set n b) (n + 1) := by
  intro i hi
  by_cases hin : n = i
  · subst hin
    simp
  · rw [get_set_other m b hin]
    exact h i (by omega)

/-- A sequence written from index 0 upward fills its length. -/
theorem filled_writeBytes (m : Memory) (bs : List Byte) : Filled (writeBytes m 0 bs) bs.length := by
  intro i hi
  rw [get_writeBytes, if_pos (by omega), Nat.sub_zero, List.getElem?_eq_getElem hi]
  rfl

/-- The invariant does not speak of what the host is still to do. -/
theorem inv_setInputs (l : List HostOp) (h : Inv s) : Inv (setInputs l s) :=
  { h with }

/-- Outside PROC no part of the invariant depends on the variant (70_reset R158). -/
theorem inv_setVariant (v : Variant) (hp : s.phase ≠ .proc) (h : Inv s) :
    Inv { s with cfg := { s.cfg with variant := v } } := by
  have hphase : PhaseOk { s with cfg := { s.cfg with variant := v } } := by
    cases hph : s.phase with
    | recv => exact (phaseOk_recv rfl).2 ((phaseOk_recv hph).1 h.phaseOk)
    | proc => exact absurd hph hp
    | send => exact (phaseOk_send rfl).2 ((phaseOk_send hph).1 h.phaseOk)
  exact { h with phaseOk := hphase }

/-- Every stage keeps the invariant: it passes what ST_GUARD has found on, or ends with an empty inbound buffer. -/
theorem stageCase_keeps_inv (h : Inv s) (hp : s.phase = .proc) (hc : StageCase s t) : Inv t := by
  obtain ⟨-, htxlen, htxptr, hpast⟩ := (phaseOk_proc hp).1 h.phaseOk
  cases hc with
  | guardPasses hst hovf hlen =>
    exact { h with phaseOk := Iff.mpr (phaseOk_proc hp) ⟨nofun, htxlen, htxptr, fun _ => ⟨hovf, hlen⟩⟩ }
  | extractPasses w hst | dispatchPasses c hst =>
    have hguarded := hpast (by rw [hst]; nofun)
    exact { h with phaseOk := Iff.mpr (phaseOk_proc hp) ⟨nofun, htxlen, htxptr, fun _ => hguarded⟩ }
  | verifyPasses a w n hst hn =>
    have hidx := fitsIndexWidth_of_indexReached h hn
    have hguarded := hpast (by rw [hst]; nofun)
    exact { h with
      idxWidth := hidx
      phaseOk := Iff.mpr (phaseOk_proc hp) ⟨nofun, htxlen, htxptr, fun _ => hguarded⟩ }
  | rejects c a w n hn =>
    have hidx := fitsIndexWidth_of_indexReached h hn
    exact { h with
      rxFilled := filled_zero _
      rxCapacity := rxFits_zero _
      ovfFull := nofun
      idxWidth := hidx
      phaseOk := ⟨rfl, rfl, rfl⟩ }
  | answers resp d a w n hn hlen =>
    have hidx := fitsIndexWidth_of_indexReached h hn
    obtain ⟨hthree, hmax⟩ := hlen ((paramsLegal_iff _).1 h.legal).1
    exact { h with
      txCanonical := writeBytes_wf h.txCanonical 0 resp
      rxFilled := filled_zero _
      rxCapacity := rxFits_zero _
      ovfFull := nofun
      idxWidth := hidx
      phaseOk := ⟨rfl, rfl, rfl, hthree, hmax, (by omega : 0 < resp.length), filled_writeBytes _ resp⟩ }

/-- Settles O51: each case of a step keeps the invariant. -/
theorem everyStepKeepsTheInvariant : Obligations.EveryStepKeepsTheInvariant := by
  unfold Obligations.EveryStepKeepsTheInvariant
  intro s t h hstep
  cases step_cases hstep with
  | waits l => exact inv_setInputs l h
  | stage l hp hst => exact stageCase_keeps_inv (inv_setInputs l h) hp hst
  | receives b rest hp hroom =>
    have hrecv := (phaseOk_recv hp).1 h.phaseOk
    exact { h with
      rxCanonical := set_keeps_wf _ b h.rxCanonical
      rxFilled := filled_set b h.rxFilled
      rxCapacity := rxFits_succ hroom
      ovfFull := fun hovf => absurd (hroom.symm.trans (h.ovfFull hovf)) nofun
      phaseOk := Iff.mpr (phaseOk_recv hp) hrecv }
  | overflows b rest hi hp hfull =>
    have hrecv := (phaseOk_recv hp).1 h.phaseOk
    exact { h with
      ovfFull := fun _ => hfull
      phaseOk := Iff.mpr (phaseOk_recv hp) hrecv }
  | begins rest hp =>
    obtain ⟨-, htxlen, htxptr⟩ := (phaseOk_recv hp).1 h.phaseOk
    exact { h with phaseOk := ⟨nofun, htxlen, htxptr, fun hne => absurd rfl hne⟩ }
  | pops b rest hp hlt hne =>
    obtain ⟨hstage, hrxlen, hrxovf, hthree, hmax, -, hfilled⟩ := (phaseOk_send hp).1 h.phaseOk
    have hnext : s.txptr + 1 < s.txlen := by omega
    exact { h with phaseOk := Iff.mpr (phaseOk_send hp) ⟨hstage, hrxlen, hrxovf, hthree, hmax, hnext, hfilled⟩ }
  | popsLast b rest hp =>
    obtain ⟨hstage, -⟩ := (phaseOk_send hp).1 h.phaseOk
    exact { h with phaseOk := ⟨hstage, rfl, rfl⟩ }
  | resets rest =>
    exact { h with
      rxCanonical := nil_wf
      txCanonical := nil_wf
      rxFilled := filled_zero _
      rxCapacity := rxFits_zero _
      ovfFull := nofun
      idxWidth := fitsIndexWidth_cut s.cfg _
      phaseOk := ⟨rfl, rfl, rfl⟩ }
  | straps pin rest hi hp => exact inv_setInputs rest (inv_setVariant _ hp h)

end Sys2Proof.Proofs

end

/-! PROOFS. Two runs that agree on the live registers cannot be told apart (10_state R10, R12, R21). -/

section

namespace Sys2Proof.Proofs

open Sys2Proof.Machine Sys2Proof.Safety Sys2Proof.Laws

/-! ### States and outcomes that cannot be told apart -/

/-- Two states that agree on everything a later step can read and have shown the same outputs. -/
structure Indistinct (s t : State) : Prop where
  live : LiveAgree s t
  outputs : SameOutputs s t

/-- Where the first outcome is a next state, so is the second, and the two cannot be told apart. -/
def Matched (o o' : Host.Outcome State Fault Refusal) : Prop :=
  ∀ s', o = .next s' → ∃ t', o' = .next t' ∧ Indistinct s' t'

theorem matched_next {s t : State} (h : Indistinct s t) : Matched (.next s) (.next t) := by
  intro s' hs
  obtain rfl := Host.Outcome.next.inj hs
  exact ⟨t, rfl, h⟩

theorem matched_fault (f : Fault) (o : Host.Outcome State Fault Refusal) : Matched (.fault f) o := nofun

theorem matched_refused (r : Refusal) (o : Host.Outcome State Fault Refusal) : Matched (.refused r) o := nofun

/-- What the first outcome is known to be from its next state may be used to match it. -/
theorem matched_of_next {o o' : Host.Outcome State Fault Refusal} (h : ∀ s', o = .next s' → Matched o o') :
    Matched o o' :=
  fun s' hs => h s' hs s' hs

/-! ### The named updates -/

variable {s t : State}

theorem indistinct_setInputs (l : List HostOp) (h : Indistinct s t) : Indistinct (setInputs l s) (setInputs l t) :=
  { h with live := { h.live with inputs := rfl } }

/-- Outside ST_VERIFY the latch `CLAIMED` is not read, outside ST_SEAL the latch `CMD` is not. -/
theorem indistinct_setStage {st : Stage} (h : Indistinct s t) (hv : st = .verify → s.claimed = t.claimed)
    (hc : st = .sealing → s.cmd = t.cmd) : Indistinct (setStage st s) (setStage st t) :=
  { h with live := { h.live with stage := rfl, claimedLive := hv, cmdLive := hc } }

/-- Idle states of one configuration and queue agree: no buffer byte and no latch of an idle state is live (10_state R22). -/
theorem liveAgree_of_idle (hs : Idle s) (ht : Idle t) (hcfg : s.cfg = t.cfg) (hinputs : s.inputs = t.inputs) :
    LiveAgree s t := by
  obtain ⟨hsphase, hsstage, hsrxlen, hsrxovf, hstxlen, hstxptr⟩ := hs
  obtain ⟨htphase, htstage, htrxlen, htrxovf, httxlen, httxptr⟩ := ht
  exact
    { cfg := hcfg
      phase := hsphase.trans htphase.symm
      stage := hsstage.trans htstage.symm
      rxlen := hsrxlen.trans htrxlen.symm
      rxovf := hsrxovf.trans htrxovf.symm
      txlen := hstxlen.trans httxlen.symm
      txptr := hstxptr.trans httxptr.symm
      inputs := hinputs
      rxBytes := fun i hi => absurd (hsrxlen ▸ hi) (Nat.not_lt_zero i)
      txBytes := fun hp => absurd (hsphase.symm.trans hp) nofun
      claimedLive := fun hst => absurd (hsstage.symm.trans hst) nofun
      cmdLive := fun hst => absurd (hsstage.symm.trans hst) nofun }

theorem indistinct_reject (c : Cause) (h : Indistinct s t) : Indistinct (reject c s) (reject c t) where
  live := liveAgree_of_idle (idle_reject c s) (idle_reject c t) h.live.cfg h.live.inputs
  outputs := ⟨h.outputs.1, congrArg (· ++ [Diag.rejected c]) h.outputs.2⟩

/-- The free values of the two resets may differ. -/
theorem indistinct_resetBlock (h : Indistinct s t) : Indistinct (resetBlock s) (resetBlock t) where
  live := liveAgree_of_idle (idle_resetBlock s) (idle_resetBlock t) h.live.cfg h.live.inputs
  outputs := h.outputs

/-- No later step reads `ACC`, `COMPUTED` or `IDX`. -/
theorem indistinct_setScratch (a a' w w' : Word) (n n' : Nat) (h : Indistinct s t) :
    Indistinct (setScratch a w n s) (setScratch a' w' n' t) :=
  { h with live := { h.live with } }

/-- A response that waits is the same from index 0 to its end, whatever `TXBUF` held. -/
theorem indistinct_finishAnswer (resp : List Byte) (d : Diag) (h : Indistinct s t) :
    Indistinct (finishAnswer resp.length d (setTxbuf (writeBytes s.txbuf 0 resp) s))
      (finishAnswer resp.length d (setTxbuf (writeBytes t.txbuf 0 resp) t)) where
  live := { h.live with
    phase := rfl
    stage := rfl
    rxlen := rfl
    rxovf := rfl
    txlen := rfl
    txptr := rfl
    rxBytes := nofun
    txBytes := fun _ i hi => by
      have hin : 0 ≤ i ∧ i < 0 + resp.length := ⟨Nat.zero_le i, by simpa using hi⟩
      simp only [finishAnswer_txbuf, setTxbuf_txbuf, get_writeBytes, if_pos hin]
    claimedLive := nofun
    cmdLive := nofun }
  outputs := ⟨h.outputs.1, congrArg (· ++ [d]) h.outputs.2⟩

theorem indistinct_answeredState (template : List Byte) (sealed : Bool) (d : Diag) (h : Indistinct s t) :
    Indistinct (answeredState template sealed d s) (answeredState template sealed d t) := by
  obtain ⟨a, n, -, hs⟩ := answeredState_eq template sealed d s
  obtain ⟨a', n', -, ht⟩ := answeredState_eq template sealed d t
  rw [hs, ht, ← h.live.cfg]
  exact indistinct_finishAnswer _ d (indistinct_setScratch a a' s.computed t.computed n n' h)

/-! ### The reads -/

/-- A read of `RXBUF` has the same result: it looks at the phase, the length and one byte below it (20_memory R42). -/
theorem rxRead_congr (h : LiveAgree s t) (i : Nat) : rxRead s i = rxRead t i := by
  unfold rxRead
  rw [← h.phase, ← h.rxlen]
  split
  next hlegal => rw [h.rxBytes i hlegal.2]
  next => rfl

/-- A read of `TXBUF` has the same result. -/
theorem txRead_congr (h : LiveAgree s t) (i : Nat) : txRead s i = txRead t i := by
  unfold txRead
  rw [← h.phase, ← h.txlen]
  split
  next hlegal => rw [h.txBytes hlegal.1 i hlegal.2]
  next => rfl

theorem guardFirstByte_congr (h : LiveAgree s t) : guardFirstByte s = guardFirstByte t := by
  unfold guardFirstByte
  rw [h.cfg, h.rxlen, rxRead_congr h]

/-! ### The stages -/

theorem matched_stageGuard (h : Indistinct s t) : Matched (stageGuard s) (stageGuard t) := by
  unfold stageGuard
  rw [← h.live.rxovf, ← guardFirstByte_congr h.live, ← h.live.cfg, ← h.live.rxlen]
  split
  next => exact matched_next (indistinct_reject _ h)
  next =>
    split
    next => exact matched_fault _ _
    next =>
      split
      next c _ => exact matched_next (indistinct_reject c h)
      next => exact matched_next (indistinct_setStage h nofun nofun)

/-- The latched CRC is the same, since the two bytes it is made of are. -/
theorem matched_stageExtract (h : Indistinct s t) : Matched (stageExtract s) (stageExtract t) := by
  unfold stageExtract
  rw [← h.live.rxlen, ← rxRead_congr h.live, ← rxRead_congr h.live]
  split
  next => exact matched_fault _ _
  next =>
    split
    next =>
      exact matched_next { h with live := { h.live with stage := rfl, claimedLive := fun _ => rfl, cmdLive := nofun } }
    next => exact matched_fault _ _
    next => exact matched_fault _ _

/-- The loop of ST_VERIFY over the covered bytes `bs`, all written (40_crc_engine R71). -/
theorem verifyLoop_of_covered {bs : List Byte} (hp : s.phase = .proc) (hlen : bs.length = s.rxlen - 2)
    (hbytes : ∀ j, j < s.rxlen - 2 → s.rxbuf.get? j = bs[j]?) :
    verifyLoop (s.rxlen - 2) (setIdx 0 (crcInit s)) =
      .ok (setIdx bs.length (setAcc (accBytes s.cfg.consts s.cfg.consts.crcInit bs) s)) := by
  have hfits : 0 + bs.length ≤ s.rxlen := by omega
  have hget : ∀ j, j < bs.length → s.rxbuf.get? (0 + j) = bs[j]? := fun j hj => by
    rw [Nat.zero_add]
    exact hbytes j (by omega)
  rw [← hlen, verifyLoop_ok (s := setIdx 0 (crcInit s)) hp hfits hget, setIdx_idx, Nat.zero_add]
  rfl

/-- ST_VERIFY where the variant verifies and the covered bytes `bs` are all written (41_frame_validator R85). -/
theorem stageVerify_of_covered {bs : List Byte} (hp : s.phase = .proc) (hv : verifyRxCrc s.cfg = true)
    (hlen : bs.length = s.rxlen - 2) (hbytes : ∀ j, j < s.rxlen - 2 → s.rxbuf.get? j = bs[j]?) :
    stageVerify s =
      if crcBad (computeCrc s.cfg.consts bs) s.claimed then
        .next (reject (.crc (computeCrc s.cfg.consts bs) s.claimed) (verifiedState bs s))
      else .next (setStage .dispatch (verifiedState bs s)) := by
  unfold stageVerify
  rw [if_pos hv, crcLen, verifyLoop_of_covered hp hlen hbytes]
  rfl

/-- The computed CRC is the same, since the covered bytes are, and `CLAIMED` is live here. -/
theorem matched_stageVerify (h : Indistinct s t) (hp : s.phase = .proc) (hst : s.stage = .verify) :
    Matched (stageVerify s) (stageVerify t) := by
  by_cases hv : verifyRxCrc s.cfg = true
  · refine matched_of_next fun s' hs => ?_
    obtain ⟨hno, -⟩ | ⟨-, bs, hlen, hbytes, -, hend⟩ := stageVerify_next hs
    · exact absurd (hv.symm.trans hno) nofun
    have hbytes' : ∀ j, j < s.rxlen - 2 → t.rxbuf.get? j = bs[j]? := fun j hj =>
      (h.live.rxBytes j (by omega)).symm.trans (hbytes j hj)
    have hs' := stageVerify_of_covered hp hv hlen hbytes
    rw [h.live.cfg] at hv
    rw [h.live.rxlen] at hlen hbytes'
    have ht := stageVerify_of_covered (h.live.phase.symm.trans hp) hv hlen hbytes'
    have hverified : Indistinct (verifiedState bs s) (verifiedState bs t) :=
      indistinct_setScratch _ _ _ _ _ _ h
    rw [hs', ht, ← h.live.cfg, ← h.live.claimedLive hst]
    split
    next => exact matched_next (indistinct_reject _ hverified)
    next => exact matched_next (indistinct_setStage hverified nofun nofun)
  · unfold stageVerify
    rw [if_neg hv, if_neg (by rwa [← h.live.cfg])]
    exact matched_next (indistinct_setStage h nofun nofun)

theorem matched_stageDispatch (h : Indistinct s t) : Matched (stageDispatch s) (stageDispatch t) := by
  unfold stageDispatch
  rw [← h.live.cfg, ← h.live.rxlen, ← rxRead_congr h.live]
  split
  next => exact matched_next (indistinct_reject _ h)
  next =>
    split
    next => exact matched_fault _ _
    next =>
      exact matched_next { h with live := { h.live with stage := rfl, claimedLive := nofun, cmdLive := fun _ => rfl } }

theorem matched_sendResponse (template : List Byte) (sealed : Bool) (d : Diag) (h : Indistinct s t) :
    Matched (sendResponse template sealed d s) (sendResponse template sealed d t) := by
  intro s' hs
  obtain ⟨hfits, rfl⟩ := sendResponse_next.1 hs
  rw [h.live.cfg, h.live.phase] at hfits
  exact ⟨_, sendResponse_next.2 ⟨hfits, rfl⟩, indistinct_answeredState template sealed d h⟩

theorem matched_exec (i : Instr) (h : Indistinct s t) : Matched (exec i s) (exec i t) := by
  rw [exec_eq_sendResponse, exec_eq_sendResponse, ← h.live.cfg]
  exact matched_sendResponse _ _ _ h

theorem matched_runStage (h : Indistinct s t) (hp : s.phase = .proc) : Matched (runStage s) (runStage t) := by
  unfold runStage
  rw [← h.live.stage]
  split
  next => exact matched_fault _ _
  next => exact matched_stageGuard h
  next => exact matched_stageExtract h
  next hst => exact matched_stageVerify h hp hst
  next => exact matched_stageDispatch h
  next hst =>
    rw [← h.live.cfg, ← h.live.cmdLive hst]
    exact matched_exec _ h

/-! ### The host operations and the step -/

theorem matched_advance (h : Indistinct s t) : Matched (advance s) (advance t) := by
  unfold advance
  rw [← h.live.phase]
  split
  next hp => exact matched_runStage h hp
  next => exact matched_next h

/-- RX_BYTE where there is room (43_port_operations R116). -/
theorem opRxByte_of_room {b : Byte} (hp : s.phase = .recv) (hroom : rxHasRoom s.cfg s.rxlen = true) :
    opRxByte b s = .next { s with rxbuf := s.rxbuf.set s.rxlen b, rxlen := s.rxlen + 1 } := by
  have hwrite := (rxWrite_ok (v := b)).2 ⟨hp, rfl, hroom, rfl⟩
  unfold opRxByte
  rw [if_pos hroom, hwrite]
  rfl

/-- RX_BYTE on a full buffer (43_port_operations R116). -/
theorem opRxByte_of_full {b : Byte} (hfull : rxHasRoom s.cfg s.rxlen = false) :
    opRxByte b s = .next { s with rxovf := true } := by
  unfold opRxByte
  rw [if_neg (by simp [hfull])]

/-- One byte more is live after RX_BYTE, and it is the same. -/
theorem get_set_congr {m m' : Memory} {n : Nat} (b : Byte) (h : ∀ i, i < n → m.get? i = m'.get? i) :
    ∀ i, i < n + 1 → (m.set n b).get? i = (m'.set n b).get? i := by
  intro i hi
  rw [get_set, get_set]
  split
  next => rfl
  next hne => exact h i (by omega)

/-- RX_BYTE adds the same byte to both, or marks both. -/
theorem matched_opRxByte (b : Byte) (h : Indistinct s t) : Matched (opRxByte b s) (opRxByte b t) := by
  intro s' hs
  obtain ⟨hroom, hp, rfl⟩ | ⟨hfull, rfl⟩ := opRxByte_next hs
  · have hbytes := get_set_congr b h.live.rxBytes
    rw [h.live.cfg, h.live.rxlen] at hroom
    refine ⟨_, opRxByte_of_room (h.live.phase.symm.trans hp) hroom, ?_⟩
    rw [← h.live.rxlen]
    exact { h with live := { h.live with rxlen := rfl, rxBytes := hbytes } }
  · rw [h.live.cfg, h.live.rxlen] at hfull
    exact ⟨_, opRxByte_of_full hfull, { h with live := { h.live with rxovf := rfl } }⟩

theorem matched_opRxEnd (h : Indistinct s t) : Matched (opRxEnd s) (opRxEnd t) :=
  matched_next { h with live := { h.live with
    phase := rfl
    stage := rfl
    txBytes := nofun
    claimedLive := nofun
    cmdLive := nofun } }

/-- TX_POP shows the same byte of both, with the same mark. -/
theorem matched_opTxPop (h : Indistinct s t) : Matched (opTxPop s) (opTxPop t) := by
  unfold opTxPop
  rw [← h.live.txptr, ← h.live.txlen, ← txRead_congr h.live]
  split
  next => exact matched_fault _ _
  next b _ =>
    split
    next =>
      exact matched_next
        { live := { h.live with phase := rfl, txlen := rfl, txptr := rfl, txBytes := nofun }
          outputs := ⟨congrArg (· ++ [(b, true)]) h.outputs.1, h.outputs.2⟩ }
    next =>
      exact matched_next
        { live := { h.live with txlen := rfl, txptr := rfl, txBytes := h.live.txBytes }
          outputs := ⟨congrArg (· ++ [(b, false)]) h.outputs.1, h.outputs.2⟩ }

theorem matched_opStrap (pin : Bool) (h : Indistinct s t) : Matched (opStrap pin s) (opStrap pin t) := by
  unfold opStrap
  rw [← h.live.phase, ← h.live.cfg]
  split
  next => exact matched_refused _ _
  next => exact matched_next { h with live := { h.live with cfg := rfl, phase := rfl } }

theorem matched_perform (op : HostOp) (h : Indistinct s t) : Matched (perform op s) (perform op t) := by
  cases op with
  | rxByte b => exact matched_opRxByte b h
  | rxEnd => exact matched_opRxEnd h
  | txPop => exact matched_opTxPop h
  | reset => exact matched_next (indistinct_resetBlock h)
  | strap pin => exact matched_opStrap pin h
  | wait => exact matched_advance h

theorem matched_step (h : Indistinct s t) : Matched (step s) (step t) := by
  unfold step sequenceStep
  rw [← h.live.inputs, ← h.live.phase]
  split
  next => exact matched_advance h
  next op rest _ =>
    split
    next => exact matched_perform op (indistinct_setInputs rest h)
    next => exact matched_advance h

/-! ### O55 -/

/-- Settles O55: every read of a step is of a live register, so the steps of two states that agree on these match. -/
theorem deadRegistersAreNeverRead : Obligations.DeadRegistersAreNeverRead := by
  unfold Obligations.DeadRegistersAreNeverRead
  intro s t s' hlive hout hstep
  obtain ⟨t', ht, hlive', hout'⟩ := matched_step ⟨hlive, hout⟩ s' hstep
  exact ⟨t', ht, hlive', hout'⟩

end Sys2Proof.Proofs

end

/-! PROOFS. The byte order of the CRC field (20_memory R32, R33), and the write to `TXBUF` that stops a command outside PROC
(20_memory R42). -/

section

namespace Sys2Proof.Proofs

open Sys2Proof.Machine Sys2Proof.Laws

/-! ### The CRC field -/

/-- `lo` is bits 7 to 0 of the word. -/
theorem lo_eq_extractLsb' (w : Word) : lo w = w.extractLsb' 0 8 :=
  BitVec.setWidth_eq_extractLsb' (by decide)

/-- `hi` is bits 15 to 8 of the word. -/
theorem hi_eq_extractLsb' (w : Word) : hi w = w.extractLsb' 8 8 :=
  rfl

/-- The last two bytes of a buffer, joined low byte first, are its claimed CRC (41_frame_validator R84). -/
theorem claimedOf_append_pair (p : List Byte) (low high : Byte) :
    claimedOf (p ++ [low, high]) = some (joinWord low high) := by
  have hlow : (p ++ [low, high])[(p ++ [low, high]).length - 2]? = some low := by simp
  have hhigh : (p ++ [low, high])[(p ++ [low, high]).length - 1]? = some high := by simp
  unfold claimedOf
  rw [if_neg (by simp [crcLen]), hlow, hhigh]

/-! ### O14 -/

/-- Settles O14: `lo` and `hi` are the two bit ranges of the CRC, and joining them gives the word back. -/
theorem crcFieldIsLittleEndian : Obligations.CrcFieldIsLittleEndian := by
  unfold Obligations.CrcFieldIsLittleEndian
  refine ⟨fun k p => ?_, claimedOf_append_pair, fun c => ?_⟩
  · rw [← lo_eq_extractLsb', ← hi_eq_extractLsb']
    rfl
  · rw [← lo_eq_extractLsb', ← hi_eq_extractLsb', joinWord_lo_hi]

/-! ### O32 -/

/-- Under legal constants every command has a byte to write. -/
theorem templateOf_ne_nil {k : Constants} (hk : constantsLegal k = true) (i : Instr) : templateOf k i ≠ [] := by
  have hlen := (templateOf_length hk i).1
  exact List.ne_nil_of_length_pos (by omega)

/-- Settles O32: a command's template is not empty, so outside PROC its first byte is a write that `TXBUF` does not take. -/
theorem commandsStopOutsideProc : Obligations.CommandsStopOutsideProc := by
  unfold Obligations.CommandsStopOutsideProc
  intro i s hk hp
  rw [exec_eq_sendResponse]
  exact sendResponse_outside hp (templateOf_ne_nil hk i)

end Sys2Proof.Proofs

end

/-! PROOFS. The frame REQ and its decoder: what a buffer must be to pass validation, and that decoding and encoding undo each
other (30_encoding R47, R53, R55, R57). -/

section

namespace Sys2Proof.Proofs

open Sys2Proof.Machine Sys2Proof.Laws

variable {p : Params} {raw : List Byte}

/-! ### The checks of a buffer -/

/-- A buffer passes ST_GUARD exactly when it is long enough and begins with the sync byte (41_frame_validator R82, R83). -/
theorem guardCause_eq_none_iff {n : Nat} {first : Option Byte} :
    guardCause p n first = none ↔ minLen p ≤ n ∧ first = some p.consts.sync := by
  refine ⟨guardCause_none, fun ⟨hlen, hfirst⟩ => ?_⟩
  have hlong : tooShort p n = false := by simpa [tooShort] using hlen
  have hsync : syncBad p.consts p.consts.sync = false := by simp [syncBad]
  simp [guardCause, hfirst, hlong, hsync]

/-- The CRC comparison passes exactly on equal values (41_frame_validator R85). -/
theorem crcBad_eq_false_iff {computed claimed : Word} : crcBad computed claimed = false ↔ claimed = computed := by
  rw [crcBad, bne_eq_false_iff_eq, eq_comm]

/-- A buffer passes all three checks exactly when it passes ST_GUARD and claims a CRC, the right one where the variant
verifies it (41_frame_validator R82 to R86). -/
theorem validateFrame_eq_none_iff :
    validateFrame p raw = none ↔
      minLen p ≤ raw.length ∧ raw[0]? = some p.consts.sync ∧
        ∃ w, claimedOf raw = some w ∧ (verifyRxCrc p = true → w = computeCrc p.consts (coveredBytes raw)) := by
  rw [← and_assoc, ← guardCause_eq_none_iff]
  unfold validateFrame
  cases guardCause p raw.length raw[0]? with
  | some c => simp
  | none =>
    cases claimedOf raw with
    | none => simp
    | some w =>
      simp only [Option.some.injEq, exists_eq_left', true_and]
      rw [← crcBad_eq_false_iff]
      cases verifyRxCrc p <;> simp

/-- A buffer decodes exactly when it passes the checks and has a META and a code byte; the request is read off its fields. -/
theorem decodeFrame_eq_ok_iff {r : Request} :
    decodeFrame p raw = .ok r ↔
      validateFrame p raw = none ∧ ∃ m c, metaOf raw = some m ∧ codeOf p.consts raw = some c ∧
        r = { instr := decodeCode p.consts c, metaByte := m, payload := payloadOf p.consts raw } := by
  unfold decodeFrame
  cases validateFrame p raw with
  | some c => simp
  | none => cases metaOf raw <;> cases codeOf p.consts raw <;> simp [eq_comm]

/-! ### The format REQ -/

/-- A buffer of five bytes or more has the fields of the format REQ (30_encoding R47). -/
theorem exists_fields_of_five_le (h : 5 ≤ raw.length) :
    ∃ first m c payload low high, raw = [first, m, c] ++ payload ++ [low, high] := by
  match raw, h with
  | first :: m :: c :: rest, h =>
    have htail : (rest.drop (rest.length - 2)).length = 2 := by
      rw [List.length_drop]
      simp only [List.length_cons] at h
      omega
    obtain ⟨low, high, hpair⟩ := List.length_eq_two.1 htail
    exact ⟨first, m, c, rest.take (rest.length - 2), low, high, by
      rw [List.append_assoc, ← hpair, List.take_append_drop]; rfl⟩

/-- The CRC covers everything but the two bytes of the field (30_encoding R47). -/
theorem coveredBytes_append_pair (body : List Byte) (low high : Byte) : coveredBytes (body ++ [low, high]) = body := by
  simp [coveredBytes, crcLen]

/-- Decoding a buffer given by its fields: the first byte must be the sync byte and, where the variant verifies, the last
two the CRC of the others; every field of the request is then read where it stands (30_encoding R47). -/
theorem decodeFrame_fields_iff (hp : paramsLegal p = true) {first m c low high : Byte} {payload : List Byte}
    {r : Request} :
    decodeFrame p ([first, m, c] ++ payload ++ [low, high]) = .ok r ↔
      first = p.consts.sync ∧
        (verifyRxCrc p = true → joinWord low high = computeCrc p.consts ([first, m, c] ++ payload)) ∧
        r = { instr := decodeCode p.consts c, metaByte := m, payload := payload } := by
  obtain ⟨hk, -⟩ := (paramsLegal_iff p).1 hp
  obtain ⟨hidx, -⟩ := (constantsLegal_iff _).1 hk
  have hlen : minLen p ≤ ([first, m, c] ++ payload ++ [low, high]).length := by
    have hmin := (minLen_legal hp).2
    simp only [List.length_append, List.length_cons, List.length_nil]
    omega
  have hfirst : ([first, m, c] ++ payload ++ [low, high])[0]? = some first := rfl
  have hmeta : metaOf ([first, m, c] ++ payload ++ [low, high]) = some m := rfl
  have hcode : codeOf p.consts ([first, m, c] ++ payload ++ [low, high]) = some c := by
    rw [codeOf, hidx]
    rfl
  have hpayload : payloadOf p.consts ([first, m, c] ++ payload ++ [low, high]) = payload := by
    rw [payloadOf, coveredBytes_append_pair, hidx]
    rfl
  rw [decodeFrame_eq_ok_iff, validateFrame_eq_none_iff, coveredBytes_append_pair, claimedOf_append_pair, hmeta, hcode,
    hpayload, hfirst]
  simp only [hlen, true_and, Option.some.injEq, exists_and_left, exists_eq_left', and_assoc]

/-! ### O5 -/

/-- Under legal constants the code of a well-formed command selects that command (30_encoding R53). -/
theorem decodeCode_encodeCode {k : Constants} (hk : constantsLegal k = true) {i : Instr} (hi : i.wf k = true) :
    decodeCode k (encodeCode k i) = i := by
  cases i with
  | queryId => exact CodeRoundTrip.queryId k hk hi
  | abortTx => exact CodeRoundTrip.abortTx k hk hi
  | applyCfg => exact CodeRoundTrip.applyCfg k hk hi
  | sendData => exact CodeRoundTrip.sendData k hk hi
  | queryBurst => exact CodeRoundTrip.queryBurst k hk hi
  | unknown code => exact CodeRoundTrip.unknown code k hk hi

/-- Settles O5: a sealed frame has the sync byte and its own CRC, so it decodes to its fields, and its code to its command. -/
theorem decodeOfEncodedRequestIsTheRequest : Obligations.DecodeOfEncodedRequestIsTheRequest := by
  unfold Obligations.DecodeOfEncodedRequestIsTheRequest
  intro p r hp hr
  obtain ⟨hk, -⟩ := (paramsLegal_iff p).1 hp
  have hinstr : decodeCode p.consts (encodeCode p.consts r.instr) = r.instr := decodeCode_encodeCode hk hr
  exact (decodeFrame_fields_iff hp).2 ⟨rfl, fun _ => joinWord_lo_hi _, by rw [hinstr]⟩

/-! ### O6 -/

/-- Settles O6: the fields of the buffer are those of the frame of its request: the sync byte and the CRC because they were
checked, the code because the command it selects has it. -/
theorem encodeOfDecodedFrameIsTheFrame : Obligations.EncodeOfDecodedFrameIsTheFrame := by
  unfold Obligations.EncodeOfDecodedFrameIsTheFrame
  intro p raw r hp hv hlen hdec
  obtain ⟨first, m, c, payload, low, high, rfl⟩ := exists_fields_of_five_le hlen
  obtain ⟨rfl, hcrc, rfl⟩ := (decodeFrame_fields_iff hp).1 hdec
  obtain ⟨hwf, hcode⟩ := decodeCode_wf p.consts c
  refine ⟨hwf, ?_⟩
  rw [encodeRequest, hcode, sealBytes, ← hcrc hv, crcField_joinWord]

/-! ### O35 -/

/-- `process_command` is ST_GUARD followed by the stages behind it (41_frame_validator R81). -/
theorem processCommand_eq_guardCause_elim (p : Params) (raw : List Byte) :
    processCommand p raw = (guardCause p raw.length raw[0]?).elim (processChecked p raw) Result.raise := by
  unfold processCommand guardCause tooShort syncBad
  cases raw with
  | nil => cases lenBeforeSync p <;> simp
  | cons b bs =>
    cases lenBeforeSync p <;> simp [apply_ite (Option.elim · (processChecked p (b :: bs)) Result.raise)]

/-- A buffer that fails a check of the decoder is rejected by `process_command` with the same cause (60_exceptions R136). -/
theorem processCommand_of_validateFrame_eq_some {c : Cause} (h : validateFrame p raw = some c) :
    processCommand p raw = .raise c := by
  rw [processCommand_eq_guardCause_elim]
  unfold validateFrame at h
  unfold processChecked
  cases hguard : guardCause p raw.length raw[0]? with
  | some cause =>
    obtain rfl : cause = c := by simpa [hguard] using h
    rfl
  | none =>
    cases hclaimed : claimedOf raw with
    | none =>
      obtain rfl : .short = c := by simpa [hguard, hclaimed] using h
      rfl
    | some w =>
      simp only [hguard, hclaimed] at h
      split at h
      next hv =>
        split at h
        next hbad =>
          obtain rfl := Option.some.inj h
          exact if_pos (Bool.and_eq_true_iff.2 ⟨hv, hbad⟩)
        next => exact absurd h nofun
      next => exact absurd h nofun

/-- Settles O35: each malformation is one that validation does not let pass, and what fails validation is rejected. -/
theorem malformedBuffersGetNoResponse : Obligations.MalformedBuffersGetNoResponse := by
  unfold Obligations.MalformedBuffersGetNoResponse
  intro p raw _ hbad
  cases hval : validateFrame p raw with
  | some c => exact ⟨c, processCommand_of_validateFrame_eq_some hval⟩
  | none =>
    obtain ⟨hlen, hsync, w, hclaimed, hcrc⟩ := validateFrame_eq_none_iff.1 hval
    rcases hbad with hshort | hnosync | ⟨hv, hwrong⟩
    · exact absurd hlen (Nat.not_le.2 hshort)
    · exact absurd hsync hnosync
    · exact absurd (hcrc hv ▸ hclaimed) hwrong

/-! ### O1 -/

/-- Settles O1: the mnemonic of the one matching row and the chain of given codes, for every byte. -/
theorem everyCodeSelectsOneCommand : Obligations.EveryCodeSelectsOneCommand := by
  unfold Obligations.EveryCodeSelectsOneCommand
  exact ⟨rfl, fun c => ⟨opTable_mnemonic c, decodeCode_eq c⟩⟩

/-! ### O2 -/

/-- Settles O2: each value by its definition, and the given constants are legal. -/
theorem constantsHaveTheGivenValues : Obligations.ConstantsHaveTheGivenValues := by
  unfold Obligations.ConstantsHaveTheGivenValues
  exact ⟨rfl, rfl, rfl, rfl, rfl, rfl, rfl, rfl, rfl, constants_legal, rfl⟩

/-! ### O4 -/

/-- Settles O4, by running the decoder on each of the seven buffers. -/
theorem writtenOutFramesDecode : Obligations.WrittenOutFramesDecode := by
  unfold Obligations.WrittenOutFramesDecode
  refine ⟨?_, ?_, ?_, ?_, ?_, ?_, ?_⟩ <;> decide +kernel

end Sys2Proof.Proofs

end

/-! PROOFS. The CRC engine: the byte-at-a-time form, the residue that tells the sealed sequences, and what flipping one bit
does to it (40_crc_engine R66 to R78). -/

section

namespace Sys2Proof.Proofs

open Sys2Proof.Machine Sys2Proof.Safety Sys2Proof.Laws

variable {k : Constants}

/-! ### O7 and O8 -/

/-- `CRC_XORIN` keeps bits 15 to 8: the zero-extended byte has none of them (40_crc_engine R67). -/
theorem getLsbD_accXorin_of_le {i : Nat} (hi : 8 ≤ i) (a : Word) (b : Byte) :
    (accXorin a b).getLsbD i = a.getLsbD i := by
  simp [accXorin, BitVec.getLsbD_of_ge b i hi]

/-- Settles O7: each micro-operation by its definition, bits 15 to 8 after `CRC_XORIN`, and the complement. -/
theorem crcMicroOperationsActOnAcc : Obligations.CrcMicroOperationsActOnAcc := by
  unfold Obligations.CrcMicroOperationsActOnAcc
  exact ⟨fun s b => ⟨rfl, rfl, fun i hi => getLsbD_accXorin_of_le hi s.acc b, rfl, rfl⟩, rfl, rfl, accFinal_eq_not⟩

/-- Settles O8: the eight shifts written out, the frame of `CRC_BYTE`, and the two worked values. -/
theorem crcByteIsOneXorAndEightShifts : Obligations.CrcByteIsOneXorAndEightShifts := by
  unfold Obligations.CrcByteIsOneXorAndEightShifts
  refine ⟨fun s b => ⟨rfl, ?_⟩, by decide, by decide⟩
  rw [crcByte_eq]
  rfl

/-! ### O9 -/

/-- `CRC_BYTE` of each byte in order runs `accBytes` on `ACC` and writes nothing else. -/
theorem foldl_crcByte (bs : List Byte) (s : State) :
    bs.foldl (fun t b => crcByte b t) s = setAcc (accBytes s.cfg.consts s.acc bs) s := by
  induction bs generalizing s with
  | nil => rfl
  | cons b bs ih =>
    rw [List.foldl_cons, ih, crcByte_eq]
    rfl

/-- The accumulator after a sequence is the fold of `CRC_BYTE` over it. -/
theorem accBytes_eq_foldl (k : Constants) (a : Word) (bs : List Byte) : accBytes k a bs = bs.foldl (accByte k) a := by
  induction bs generalizing a with
  | nil => rfl
  | cons b bs ih => exact ih _

/-- Settles O9: both loops on the state leave `accBytes` in `ACC`; the worked example by running it. -/
theorem engineFoldsTheBytesInOrder : Obligations.EngineFoldsTheBytesInOrder := by
  unfold Obligations.EngineFoldsTheBytesInOrder
  refine ⟨fun s bs => ⟨?_, ?_⟩, fun k bs => ?_, ?_, ?_, ?_, ?_, ?_⟩
  · rw [foldl_crcByte]
    rfl
  · rw [sealLoop_eq]
    rfl
  · rw [← accBytes_eq_foldl]
    rfl
  all_goals decide +kernel

/-! ### O10 -/

/-- Shifts that meet only zero bits XOR nothing in (40_crc_engine R68). -/
theorem accShifts_eq_ushiftRight {n : Nat} {a : Word} (h : ∀ i < n, a.getLsbD i = false) :
    accShifts k n a = a >>> n := by
  induction n generalizing a with
  | zero => simp [accShifts]
  | succ n ih =>
    have hshift : accShift k a = a >>> 1 := by rw [accShift, if_neg (ne_true_of_eq_false (h 0 n.succ_pos))]
    have htail : ∀ i < n, (a >>> 1).getLsbD i = false := fun i hi => by
      rw [BitVec.getLsbD_ushiftRight]
      exact h (1 + i) (by omega)
    rw [accShifts, hshift, ih htail, ← BitVec.shiftRight_add, Nat.add_comm]

theorem accShifts_add (m n : Nat) (a : Word) : accShifts k (m + n) a = accShifts k n (accShifts k m a) := by
  induction m generalizing a with
  | zero => rw [Nat.zero_add]; rfl
  | succ m ih => rw [Nat.succ_add]; exact ih _

/-- The two bytes of a word share no bit. -/
theorem joinWord_eq_xor (low high : Byte) : joinWord low high = low.setWidth 16 ^^^ (high.setWidth 16 <<< 8) := by
  apply BitVec.eq_of_getLsbD_eq
  intro i hi
  rcases Nat.lt_or_ge i 8 with hlow | hhigh
  · simp [joinWord, hlow]
  · simp [joinWord, BitVec.getLsbD_of_ge low i hhigh]

/-- Eight shifts move a byte down from the high half of the word. -/
theorem accShifts_highByte (high : Byte) : accShifts k 8 (high.setWidth 16 <<< 8) = high.setWidth 16 := by
  have hzero : ∀ i < 8, (high.setWidth 16 <<< 8 : Word).getLsbD i = false := fun i hi => by simp [hi]
  rw [accShifts_eq_ushiftRight hzero]
  apply BitVec.eq_of_getLsbD_eq
  intro i hi
  rcases Nat.lt_or_ge i 8 with hlow | hhigh
  · have h16 : 8 + i < 16 := by omega
    simp [hi, h16]
  · simp [BitVec.getLsbD_of_ge high i hhigh]

/-- Eight shifts of a word use up its low byte and only move its high byte down (40_crc_engine R75). -/
theorem accShifts_xor_joinWord (a : Word) (low high : Byte) :
    accShifts k 8 (a ^^^ joinWord low high) = accByte k a low ^^^ high.setWidth 16 := by
  rw [joinWord_eq_xor, ← BitVec.xor_assoc, accShifts_xor, accShifts_highByte]
  rfl

/-- `CRC_BYTE` from a cleared accumulator is the table (40_crc_engine R75). -/
theorem accByte_zero (b : Byte) : accByte k 0#16 b = crcTable k b := by
  rw [accByte, accXorin, BitVec.zero_xor, crcTable]

theorem setWidth_hi (w : Word) : (Machine.hi w).setWidth 16 = w >>> 8 := by
  apply BitVec.eq_of_toNat_eq
  simp only [Machine.hi, BitVec.toNat_setWidth, BitVec.toNat_ushiftRight, Nat.shiftRight_eq_div_pow]
  omega

/-- `CRC_XORIN` leaves the high byte alone (40_crc_engine R67). -/
theorem accXorin_ushiftRight (a : Word) (b : Byte) : accXorin a b >>> 8 = a >>> 8 := by
  apply BitVec.eq_of_getLsbD_eq
  intro i _
  rw [BitVec.getLsbD_ushiftRight, BitVec.getLsbD_ushiftRight, getLsbD_accXorin_of_le (Nat.le_add_right 8 i)]

/-- Settles O10: the word that is shifted is the join of its low byte, which the table answers for, and its high byte, which
is that of the accumulator. -/
theorem crcByteHasTheTableForm : Obligations.CrcByteHasTheTableForm := by
  unfold Obligations.CrcByteHasTheTableForm
  intro k a b
  calc accByte k a b
      = accShifts k 8 (0#16 ^^^ joinWord (lo (accXorin a b)) (Machine.hi (accXorin a b))) := by
        rw [BitVec.zero_xor, joinWord_lo_hi, accByte]
    _ = crcTable k (lo (accXorin a b)) ^^^ a >>> 8 := by
        rw [accShifts_xor_joinWord, accByte_zero, setWidth_hi, accXorin_ushiftRight]
    _ = a >>> 8 ^^^ crcTable k (lo (accXorin a b)) := BitVec.xor_comm _ _

/-! ### O11 -/

/-- Settles O11: feeding in two parts, and reading the sealed sequence back. -/
theorem crcStreamsAndSealedSequencesVerify : Obligations.CrcStreamsAndSealedSequencesVerify := by
  unfold Obligations.CrcStreamsAndSealedSequencesVerify
  refine fun k => ⟨accBytes_append k, fun s t => ?_, fun p => ?_⟩
  · rw [← accBytes_append, computeCrc]
  · rw [claimedOf_sealBytes, coveredBytes_sealBytes]

/-! ### O12 -/

/-- What a correctly sealed sequence leaves in the accumulator (40_crc_engine R77), for any constants. -/
def residue (k : Constants) : Word :=
  accShifts k 16 k.crcXorout

theorem residue_constants : residue constants = 0xF0B8 := by decide +kernel

/-- Feeding two bytes is sixteen shifts of the accumulator XORed with their word. -/
theorem accBytes_pair (a : Word) (low high : Byte) :
    accBytes k a [low, high] = accShifts k 16 (a ^^^ joinWord low high) := by
  calc accBytes k a [low, high]
      = accShifts k 8 (accByte k a low ^^^ high.setWidth 16) := rfl
    _ = accShifts k 8 (accShifts k 8 (a ^^^ joinWord low high)) := by rw [accShifts_xor_joinWord]
    _ = accShifts k 16 (a ^^^ joinWord low high) := (accShifts_add 8 8 _).symm

/-- The accumulator after a buffer is sixteen shifts of what its two last bytes and the CRC of the others differ by, and
of the final XOR. -/
theorem accBytes_append_pair (body : List Byte) (low high : Byte) :
    accBytes k k.crcInit (body ++ [low, high]) =
      accShifts k 16 (joinWord low high ^^^ computeCrc k body ^^^ k.crcXorout) := by
  rw [accBytes_append, accBytes_pair, computeCrc, accFinal, BitVec.xor_comm, BitVec.xor_assoc, BitVec.xor_assoc,
    BitVec.xor_self, BitVec.xor_zero]

/-- A buffer of two bytes or more is covered bytes and the two of the CRC field. -/
theorem exists_append_pair {raw : List Byte} (h : 2 ≤ raw.length) : ∃ body low high, raw = body ++ [low, high] := by
  have htail : (raw.drop (raw.length - 2)).length = 2 := by
    rw [List.length_drop]
    omega
  obtain ⟨low, high, hpair⟩ := List.length_eq_two.1 htail
  exact ⟨raw.take (raw.length - 2), low, high, by rw [← hpair, List.take_append_drop]⟩

/-- A buffer whose claimed CRC is that of the covered bytes leaves the residue: the difference cancels (40_crc_engine R77). -/
theorem accBytes_eq_residue {raw : List Byte} (h : claimedOf raw = some (computeCrc k (coveredBytes raw))) :
    accBytes k k.crcInit raw = residue k := by
  have hlen : 2 ≤ raw.length := by
    by_contra hshort
    simp [claimedOf, crcLen, Nat.not_le.1 hshort] at h
  obtain ⟨body, low, high, rfl⟩ := exists_append_pair hlen
  rw [claimedOf_append_pair, coveredBytes_append_pair, Option.some.injEq] at h
  rw [accBytes_append_pair, h, BitVec.xor_self, BitVec.zero_xor, residue]

/-- Where the shifts are one-to-one, only such a buffer does. -/
theorem accBytes_eq_residue_iff (hk : k.polyReflected.getLsbD 15 = true) {raw : List Byte} (hlen : 2 ≤ raw.length) :
    accBytes k k.crcInit raw = residue k ↔ claimedOf raw = some (computeCrc k (coveredBytes raw)) := by
  refine ⟨fun h => ?_, accBytes_eq_residue⟩
  obtain ⟨body, low, high, rfl⟩ := exists_append_pair hlen
  rw [accBytes_append_pair] at h
  have hdiff : joinWord low high ^^^ computeCrc k body = 0#16 := by
    refine (BitVec.xor_left_inj k.crcXorout).1 ?_
    rw [BitVec.zero_xor]
    exact accShifts_inj hk h
  rw [claimedOf_append_pair, coveredBytes_append_pair, BitVec.xor_eq_zero_iff.1 hdiff]

theorem accBytes_sealBytes (k : Constants) (p : List Byte) : accBytes k k.crcInit (sealBytes k p) = residue k :=
  accBytes_eq_residue (by rw [claimedOf_sealBytes, coveredBytes_sealBytes])

/-- Settles O12: the residue of the given constants, and bit 15 of their polynomial for the direction back. -/
theorem residueTellsSealedSequences : Obligations.ResidueTellsSealedSequences := by
  unfold Obligations.ResidueTellsSealedSequences
  have hseal : ∀ p, accBytes constants 0xFFFF (sealBytes constants p) = 0xF0B8 := fun p =>
    (accBytes_sealBytes constants p).trans residue_constants
  refine ⟨fun p => ⟨hseal p, ?_⟩, fun raw hlen => ?_⟩
  · rw [computeCrc, show constants.crcInit = 0xFFFF from rfl, hseal]
    decide
  · rw [← accBytes_eq_residue_iff (by decide) hlen, residue_constants]
    rfl

/-! ### O13 -/

/-- A byte with bit `j` flipped is another byte: they differ in that bit. -/
theorem xor_bit_ne_self (b : Byte) {j : Nat} (hj : j < 8) : b ^^^ (1#8 <<< j) ≠ b := by
  intro h
  have hbit := congrArg (fun w : Byte => w.getLsbD j) h
  simp [hj] at hbit

section

variable (hk : k.polyReflected.getLsbD 15 = true)
include hk

/-- The accumulator before a byte is determined by the one after it. -/
theorem accByte_inj_acc {a a' : Word} {b : Byte} (h : accByte k a b = accByte k a' b) : a = a' :=
  (BitVec.xor_left_inj _).1 (accShifts_inj hk h)

/-- So is the byte, by both accumulators. -/
theorem accByte_inj_byte {a : Word} {b b' : Byte} (h : accByte k a b = accByte k a b') : b = b' := by
  have hwide : b.setWidth 16 = b'.setWidth 16 := (BitVec.xor_right_inj _).1 (accShifts_inj hk h)
  simpa using congrArg (BitVec.setWidth 8) hwide

theorem accBytes_inj_acc {a a' : Word} {bs : List Byte} (h : accBytes k a bs = accBytes k a' bs) : a = a' := by
  induction bs generalizing a a' with
  | nil => exact h
  | cons b bs ih => exact accByte_inj_acc hk (ih h)

/-- Flipping any one bit changes the accumulator: the byte of the bit makes a difference, and the bytes behind it keep it
(40_crc_engine R78). -/
theorem accBytes_flipBit_ne (a : Word) {raw : List Byte} {i j : Nat} (hi : i < raw.length) (hj : j < 8) :
    accBytes k a (flipBit raw i j) ≠ accBytes k a raw := by
  unfold flipBit
  induction raw generalizing a i with
  | nil => exact absurd hi (Nat.not_lt_zero i)
  | cons b bs ih =>
    cases i with
    | zero => exact fun h => xor_bit_ne_self b hj (accByte_inj_byte hk (accBytes_inj_acc hk h))
    | succ i => exact ih _ (Nat.lt_of_succ_lt_succ hi)

/-- A sealed sequence with one bit flipped does not verify: it does not leave the residue, which the sealed one leaves. -/
theorem claimedOf_flipBit_sealBytes_ne {p : List Byte} {i j : Nat} (hi : i < (sealBytes k p).length) (hj : j < 8) :
    claimedOf (flipBit (sealBytes k p) i j) ≠ some (computeCrc k (coveredBytes (flipBit (sealBytes k p) i j))) := fun h =>
  accBytes_flipBit_ne hk k.crcInit hi hj ((accBytes_eq_residue h).trans (accBytes_sealBytes k p).symm)

end

/-- Settles O13: a flipped bit is told by the CRC, and a buffer whose CRC is wrong is malformed. -/
theorem singleBitMutationGetsNoResponse : Obligations.SingleBitMutationGetsNoResponse := by
  unfold Obligations.SingleBitMutationGetsNoResponse
  refine ⟨by decide, fun c p i j hc hi hj => claimedOf_flipBit_sealBytes_ne hc hi hj, ?_⟩
  intro p r i j hp hv hc hi hj
  exact malformedBuffersGetNoResponse p _ hp (.inr (.inr ⟨hv, claimedOf_flipBit_sealBytes_ne hc hi hj⟩))

end Sys2Proof.Proofs

end

/-! PROOFS. The stages of the validator: what ST_GUARD, ST_EXTRACT and ST_VERIFY end in where the bytes they look at are
written (41_frame_validator R82 to R86), and that `process_command` answers the buffers that decode (R81). -/

section

namespace Sys2Proof.Proofs

open Sys2Proof.Machine Sys2Proof.Safety Sys2Proof.Laws

variable {p : Params} {s : State} {raw : List Byte}

/-! ### The cause that ST_GUARD finds -/

/-- Without a byte to look at the buffer is too short, in both variants. -/
@[simp] theorem guardCause_first_none (p : Params) (n : Nat) : guardCause p n none = some .short := by
  unfold guardCause
  cases lenBeforeSync p <;> simp

/-- In a buffer of the least length only the sync byte decides, so the order of the checks does not matter. -/
theorem guardCause_of_minLen_le {n : Nat} (h : minLen p ≤ n) (b : Byte) :
    guardCause p n (some b) = if b = p.consts.sync then none else some .sync := by
  have hlong : tooShort p n = false := decide_eq_false (Nat.not_lt.2 h)
  unfold guardCause
  by_cases hb : b = p.consts.sync <;> simp [hlong, syncBad, hb]

/-- Where the sync check comes first, a wrong first byte hides that the buffer is short (41_frame_validator R83). -/
theorem guardCause_of_syncFirst (h : lenBeforeSync p = false) (n : Nat) (b : Byte) :
    guardCause p n (some b) =
      if b ≠ p.consts.sync then some .sync else if n < minLen p then some .short else none := by
  unfold guardCause
  by_cases hb : b = p.consts.sync <;> simp [h, syncBad, hb, tooShort]

/-! ### ST_GUARD -/

/-- A buffer whose first byte is not looked at is rejected as short. -/
theorem stageGuard_of_first_unread (hovf : s.rxovf = false) (hread : guardReadsFirst s.cfg s.rxlen = false) :
    stageGuard s = .next (reject .short s) := by
  have hfirst : guardFirstByte s = .ok none := by simp [guardFirstByte, hread]
  simp [stageGuard, hovf, hfirst]

/-- A buffer whose first byte is looked at passes, or is rejected with the cause that the checks find. -/
theorem stageGuard_of_first_read (hp : s.phase = .proc) (hovf : s.rxovf = false)
    (hread : guardReadsFirst s.cfg s.rxlen = true) (hpos : 0 < s.rxlen) {b : Byte} (hb : s.rxbuf.get? 0 = some b) :
    stageGuard s =
      (guardCause s.cfg s.rxlen (some b)).elim (.next (setStage .extract s)) fun c => .next (reject c s) := by
  have hbyte : rxRead s 0 = .ok b := rxRead_ok.2 ⟨hp, hpos, hb⟩
  have hfirst : guardFirstByte s = .ok (some b) := by simp [guardFirstByte, hread, hbyte]
  simp only [stageGuard, hovf, hfirst]
  cases guardCause s.cfg s.rxlen (some b) <;> rfl

/-- `V1_EARLY` looks at byte 0 only in a buffer of the least length (41_frame_validator R82). -/
theorem guardReadsFirst_v1Early (hv : p.variant = .v1Early) (n : Nat) :
    guardReadsFirst p n = true ↔ p.consts.minLenV1 ≤ n := by
  simp [guardReadsFirst, lenBeforeSync, tooShort, minLen, hv]

/-- `V2_CRC` looks at byte 0 whenever there is one (41_frame_validator R82). -/
theorem guardReadsFirst_v2Crc (hv : p.variant = .v2Crc) (n : Nat) : guardReadsFirst p n = true ↔ 0 < n := by
  simp [guardReadsFirst, lenBeforeSync, hv, Nat.pos_iff_ne_zero]

/-- ST_GUARD of `V1_EARLY`: the length check, then the sync check. -/
theorem stageGuard_v1Early (hp : s.phase = .proc) (hovf : s.rxovf = false) (hv : s.cfg.variant = .v1Early) :
    (s.rxlen < s.cfg.consts.minLenV1 → stageGuard s = .next (reject .short s)) ∧
      ∀ b, 0 < s.rxlen → s.cfg.consts.minLenV1 ≤ s.rxlen → s.rxbuf.get? 0 = some b →
        stageGuard s =
          if b = s.cfg.consts.sync then .next { s with stage := .extract } else .next (reject .sync s) := by
  refine ⟨fun hshort => ?_, fun b hpos hlong hb => ?_⟩
  · exact stageGuard_of_first_unread hovf
      (Bool.eq_false_iff.2 fun hread => Nat.not_le.2 hshort ((guardReadsFirst_v1Early hv _).1 hread))
  · have hread := (guardReadsFirst_v1Early hv _).2 hlong
    have hmin : minLen s.cfg ≤ s.rxlen := by simpa [minLen, hv] using hlong
    rw [stageGuard_of_first_read hp hovf hread hpos hb, guardCause_of_minLen_le hmin]
    split <;> rfl

/-- ST_GUARD of `V2_CRC`: the empty buffer, then the sync check, then the length check. -/
theorem stageGuard_v2Crc (hp : s.phase = .proc) (hovf : s.rxovf = false) (hv : s.cfg.variant = .v2Crc) :
    (s.rxlen = 0 → stageGuard s = .next (reject .short s)) ∧
      ∀ b, 0 < s.rxlen → s.rxbuf.get? 0 = some b →
        stageGuard s =
          if b ≠ s.cfg.consts.sync then .next (reject .sync s)
          else if s.rxlen < s.cfg.minLenV2 then .next (reject .short s)
          else .next { s with stage := .extract } := by
  refine ⟨fun hempty => ?_, fun b hpos hb => ?_⟩
  · exact stageGuard_of_first_unread hovf
      (Bool.eq_false_iff.2 fun hread => ((guardReadsFirst_v2Crc hv _).1 hread).ne' hempty)
  · have hread := (guardReadsFirst_v2Crc hv _).2 hpos
    have hsyncFirst : lenBeforeSync s.cfg = false := by simp [lenBeforeSync, hv]
    have hmin : minLen s.cfg = s.cfg.minLenV2 := by simp [minLen, hv]
    rw [stageGuard_of_first_read hp hovf hread hpos hb, guardCause_of_syncFirst hsyncFirst, hmin]
    split_ifs <;> rfl

/-! ### O15 -/

/-- Settles O15: the overflow mark is tested first, and each variant then makes its checks in its own order. -/
theorem guardStageChecksInOrder : Obligations.GuardStageChecksInOrder := by
  unfold Obligations.GuardStageChecksInOrder
  refine ⟨fun s hp => ⟨fun hovf => ?_, stageGuard_v1Early hp, stageGuard_v2Crc hp⟩, rfl, rfl⟩
  rw [stageGuard, if_pos hovf]

/-! ### O17 -/

/-- The bytes that ST_VERIFY reads are the covered bytes of the buffer (41_frame_validator R85). -/
theorem coveredBytes_of_holdsFrame (h : HoldsFrame s raw) :
    (coveredBytes raw).length = s.rxlen - 2 ∧ ∀ j, j < s.rxlen - 2 → s.rxbuf.get? j = (coveredBytes raw)[j]? := by
  obtain ⟨hlen, hbytes⟩ := h
  rw [hlen]
  refine ⟨List.length_take_of_le (Nat.sub_le _ _), fun j hj => ?_⟩
  rw [hbytes j (by omega), coveredBytes, crcLen, List.getElem?_take_of_lt hj]

/-- ST_VERIFY passes exactly where the CRC of the covered bytes `bs` is the claimed one. -/
theorem stageVerify_eq_ite {bs : List Byte} (hp : s.phase = .proc) (hv : verifyRxCrc s.cfg = true)
    (hlen : bs.length = s.rxlen - 2) (hbytes : ∀ j, j < s.rxlen - 2 → s.rxbuf.get? j = bs[j]?) :
    stageVerify s =
      if computeCrc s.cfg.consts bs = s.claimed then .next (setStage .dispatch (verifiedState bs s))
      else .next (reject (.crc (computeCrc s.cfg.consts bs) s.claimed) (verifiedState bs s)) := by
  rw [stageVerify_of_covered hp hv hlen hbytes]
  by_cases heq : computeCrc s.cfg.consts bs = s.claimed <;> simp [crcBad, heq]

/-- Settles O17: the buffer's covered bytes are those whose CRC ST_VERIFY compares. -/
theorem verifyStageComparesTheCrc : Obligations.VerifyStageComparesTheCrc := by
  unfold Obligations.VerifyStageComparesTheCrc
  intro s raw hp _ hframe hv
  obtain ⟨hlen, hbytes⟩ := coveredBytes_of_holdsFrame hframe
  exact ⟨_, _, stageVerify_eq_ite hp hv hlen hbytes⟩

/-! ### O16 -/

/-- ST_EXTRACT latches the word of the last two bytes, low byte first (41_frame_validator R84). -/
theorem stageExtract_of_last_bytes {low high : Byte} (hp : s.phase = .proc) (hlen : 2 ≤ s.rxlen)
    (hlow : s.rxbuf.get? (s.rxlen - 2) = some low) (hhigh : s.rxbuf.get? (s.rxlen - 1) = some high) :
    stageExtract s = .next (setStage .verify (setClaimed (joinWord low high) s)) := by
  have hreadLow : rxRead s (s.rxlen - 2) = .ok low := rxRead_ok.2 ⟨hp, by omega, hlow⟩
  have hreadHigh : rxRead s (s.rxlen - 1) = .ok high := rxRead_ok.2 ⟨hp, by omega, hhigh⟩
  rw [stageExtract, crcLen, if_neg (Nat.not_lt.2 hlen), hreadLow, hreadHigh]

/-- Settles O16: both reads are legal, since the buffer has two bytes. -/
theorem extractStageLatchesTheClaimedCrc : Obligations.ExtractStageLatchesTheClaimedCrc := by
  unfold Obligations.ExtractStageLatchesTheClaimedCrc
  intro s low high hp hlen hlow hhigh
  exact stageExtract_of_last_bytes hp hlen hlow hhigh

/-! ### O34 -/

/-- A buffer that passes the checks of the decoder is answered by its code byte, where it has one
(41_frame_validator R81, 42_command_mux R95). -/
theorem processCommand_of_validateFrame_eq_none (h : validateFrame p raw = none) :
    processCommand p raw = (codeOf p.consts raw).elim (.raise .short) (respondTo p) := by
  obtain ⟨hlen, hsync, w, hclaimed, hcrc⟩ := validateFrame_eq_none_iff.1 h
  have hmatch : (verifyRxCrc p && (computeCrc p.consts (coveredBytes raw) != w)) = false := by
    cases hv : verifyRxCrc p
    · rfl
    · simp [hcrc hv]
  rw [processCommand_eq_guardCause_elim, guardCause_eq_none_iff.2 ⟨hlen, hsync⟩, Option.elim_none]
  simp only [processChecked, hclaimed, hmatch, codeOf]
  cases raw[p.consts.cmdIndex]? <;> rfl

/-- Settles O34: both validate alike, and behind validation both need only the code byte, since the least length leaves
a META byte. -/
theorem processCommandAgreesWithTheDecoder : Obligations.ProcessCommandAgreesWithTheDecoder := by
  unfold Obligations.ProcessCommandAgreesWithTheDecoder
  refine fun p raw hp => ⟨fun c hdec => ?_, fun r hdec => ?_⟩
  · unfold decodeFrame at hdec
    cases hval : validateFrame p raw with
    | some cause =>
      obtain rfl : cause = c := by simpa [hval] using hdec
      exact processCommand_of_validateFrame_eq_some hval
    | none =>
      have hlen : 1 < raw.length := (minLen_legal hp).1.trans (validateFrame_eq_none_iff.1 hval).1
      have hmeta : metaOf raw = some raw[1] := List.getElem?_eq_getElem hlen
      rw [processCommand_of_validateFrame_eq_none hval]
      cases hcode : codeOf p.consts raw with
      | none =>
        obtain rfl : .short = c := by simpa [hval, hmeta, hcode] using hdec
        rfl
      | some code => simp [hval, hmeta, hcode] at hdec
  · obtain ⟨hval, m, code, -, hcode, rfl⟩ := decodeFrame_eq_ok_iff.1 hdec
    rw [processCommand_of_validateFrame_eq_none hval, hcode, (decodeCode_wf p.consts code).2]
    rfl

/-! ### O18 -/

theorem verifyRxCrc_v1Early (hv : p.variant = .v1Early) : verifyRxCrc p = p.v1VerifyRxCrc := by
  simp [verifyRxCrc, hv]

theorem verifyRxCrc_v2Crc (hv : p.variant = .v2Crc) : verifyRxCrc p = true := by
  simp [verifyRxCrc, hv]

/-- Parameters with the same constants that verify alike find the same fault in a buffer of both least lengths, although
the variants check length and sync byte in different orders (41_frame_validator R86). -/
theorem validateFrame_congr {q : Params} (hconsts : p.consts = q.consts) (hverify : verifyRxCrc p = verifyRxCrc q)
    (hp : minLen p ≤ raw.length) (hq : minLen q ≤ raw.length) : validateFrame p raw = validateFrame q raw := by
  have hguard : guardCause p raw.length raw[0]? = guardCause q raw.length raw[0]? := by
    cases raw[0]? with
    | none => simp
    | some b => rw [guardCause_of_minLen_le hp, guardCause_of_minLen_le hq, hconsts]
  unfold validateFrame
  rw [hguard, hverify, hconsts]

/-- ST_GUARD finds no fault with a CRC (60_exceptions R136). -/
theorem guardCause_ne_crc (n : Nat) (first : Option Byte) (computed claimed : Word) :
    guardCause p n first ≠ some (.crc computed claimed) := by
  cases first with
  | none => simp
  | some b =>
    simp only [guardCause]
    split_ifs <;> nofun

/-- Without verification no check finds a fault with a CRC. -/
theorem validateFrame_ne_crc (hv : verifyRxCrc p = false) (computed claimed : Word) :
    validateFrame p raw ≠ some (.crc computed claimed) := by
  unfold validateFrame
  cases hguard : guardCause p raw.length raw[0]? with
  | some c => exact fun h => guardCause_ne_crc _ _ computed claimed (hguard.trans h)
  | none => cases claimedOf raw <;> simp [hv]

/-- An answer is not reported as a rejection. -/
theorem respondTo_diag_ne_rejected (p : Params) (code : Byte) (c : Cause) :
    (respondTo p code).diag ≠ .rejected c := by
  simp only [respondTo]
  split <;> nofun

/-- Without verification `process_command` rejects no buffer for its CRC. -/
theorem processCommand_diag_ne_crc (hv : verifyRxCrc p = false) (computed claimed : Word) :
    (processCommand p raw).diag ≠ .rejected (.crc computed claimed) := by
  cases hval : validateFrame p raw with
  | some c =>
    rw [processCommand_of_validateFrame_eq_some hval]
    intro hdiag
    obtain rfl : c = .crc computed claimed := Diag.rejected.inj hdiag
    exact validateFrame_ne_crc hv computed claimed hval
  | none =>
    rw [processCommand_of_validateFrame_eq_none hval]
    cases codeOf p.consts raw with
    | none => nofun
    | some code => exact respondTo_diag_ne_rejected p code _

/-- Without verification a buffer with the fields of a request and the sync byte gets a response,
whatever CRC it claims. -/
theorem processCommand_response_of_unverified (hv : verifyRxCrc p = false) (hidx : p.consts.cmdIndex = 2)
    (hmin : minLen p ≤ raw.length) (hlen : 5 ≤ raw.length) (hsync : raw[0]? = some p.consts.sync) :
    (processCommand p raw).response.isSome = true := by
  obtain ⟨first, m, c, payload, low, high, rfl⟩ := exists_fields_of_five_le hlen
  have hcode : codeOf p.consts ([first, m, c] ++ payload ++ [low, high]) = some c := by
    rw [codeOf, hidx]
    rfl
  have hval : validateFrame p ([first, m, c] ++ payload ++ [low, high]) = none :=
    validateFrame_eq_none_iff.2
      ⟨hmin, hsync, _, claimedOf_append_pair _ low high, fun hverify => absurd (hv.symm.trans hverify) nofun⟩
  rw [processCommand_of_validateFrame_eq_none hval, hcode]
  rfl

/-- Under legal constants five bytes are enough for `V1_EARLY` (41_frame_validator R82; entry 28). -/
theorem minLen_v1Early_le_five (hv : p.variant = .v1Early) (hk : constantsLegal p.consts = true) : minLen p ≤ 5 := by
  obtain ⟨-, -, hmin, -⟩ := (constantsLegal_iff _).1 hk
  simpa [minLen, hv] using hmin

/-- Settles O18: with the parameter set both variants make the same checks of a buffer of five bytes or more, and
without it nothing reads `CLAIMED`. -/
theorem earlyVariantVerifiesByItsParameter : Obligations.EarlyVariantVerifiesByItsParameter := by
  unfold Obligations.EarlyVariantVerifiesByItsParameter
  refine ⟨fun p => verifyRxCrc_v1Early, fun p => verifyRxCrc_v2Crc, rfl, ?agrees, ?stages, ?function⟩
  case agrees =>
    intro p q raw hq hconsts hpv hparam hqv hlen
    have hverify : verifyRxCrc p = verifyRxCrc q := by rw [verifyRxCrc_v1Early hpv, verifyRxCrc_v2Crc hqv, hparam]
    have hk : constantsLegal p.consts = true := hconsts ▸ ((paramsLegal_iff q).1 hq).1
    exact validateFrame_congr hconsts hverify ((minLen_v1Early_le_five hpv hk).trans hlen)
      ((minLen_legal hq).2.trans hlen)
  case stages =>
    intro s hv hparam
    have hverify : verifyRxCrc s.cfg = false := (verifyRxCrc_v1Early hv).trans hparam
    refine ⟨?_, fun low high hp hlen hlow hhigh => stageExtract_of_last_bytes hp hlen hlow hhigh⟩
    rw [stageVerify, hverify]
    rfl
  case function =>
    intro p raw hv hparam
    have hverify : verifyRxCrc p = false := (verifyRxCrc_v1Early hv).trans hparam
    refine ⟨processCommand_diag_ne_crc hverify, fun hk hlen hsync => ?_⟩
    obtain ⟨hidx, -⟩ := (constantsLegal_iff _).1 hk
    exact processCommand_response_of_unverified hverify hidx ((minLen_v1Early_le_five hv hk).trans hlen) hlen hsync

end Sys2Proof.Proofs

end

/-! PROOFS. The response multiplexer: ST_DISPATCH and its guard, sealing, what a command leaves unchanged, and what a
sealed request is answered with (42_command_mux R95 to R104). -/

section

namespace Sys2Proof.Proofs

open Sys2Proof.Machine Sys2Proof.Safety Sys2Proof.Laws

variable {p : Params} {s t : State} {raw : List Byte}

/-! ### O19 -/

/-- The guard of ST_DISPATCH rejects a buffer that ends before the command index (42_command_mux R95). -/
theorem stageDispatch_of_no_command_byte (hshort : s.rxlen ≤ s.cfg.consts.cmdIndex) :
    stageDispatch s = .next (reject .short s) := by
  simp [stageDispatch, hshort]

/-- Behind its guard ST_DISPATCH latches the byte at the command index (42_command_mux R95). -/
theorem stageDispatch_of_command_byte (hp : s.phase = .proc) {c : Byte} (hlen : s.cfg.consts.cmdIndex < s.rxlen)
    (hbyte : s.rxbuf.get? s.cfg.consts.cmdIndex = some c) :
    stageDispatch s = .next (setStage .sealing (setCmd c s)) := by
  have hread : rxRead s s.cfg.consts.cmdIndex = .ok c := rxRead_ok.2 ⟨hp, hlen, hbyte⟩
  simp [stageDispatch, hlen, hread]

/-- Two bytes are no frame in a variant that verifies, unless the sync byte is the low byte of the CRC of no bytes. -/
theorem length_ne_two_of_validateFrame (hv : verifyRxCrc p = true) (hval : validateFrame p raw = none)
    (hsync : p.consts.sync ≠ lo (computeCrc p.consts [])) : raw.length ≠ 2 := by
  intro htwo
  obtain ⟨low, high, rfl⟩ := List.length_eq_two.1 htwo
  obtain ⟨-, hfirst, w, hclaimed, hcrc⟩ := validateFrame_eq_none_iff.1 hval
  obtain rfl : low = p.consts.sync := Option.some.inj hfirst
  obtain rfl : joinWord p.consts.sync high = w := Option.some.inj hclaimed
  refine hsync ?_
  calc p.consts.sync = lo (joinWord p.consts.sync high) := (lo_joinWord _ high).symm
    _ = lo (computeCrc p.consts []) := congrArg lo (hcrc hv)

/-- With the given constants a validated buffer has a command byte, also where two bytes pass the length check: the sync
byte is not the low byte of the CRC of no bytes, which is 0000 (42_command_mux R95). -/
theorem two_lt_length_of_validateFrame (hp : paramsLegal p = true) (hc : p.consts = constants)
    (hval : validateFrame p raw = none) : 2 < raw.length := by
  have hmin : minLen p ≤ raw.length := (validateFrame_eq_none_iff.1 hval).1
  cases hv : p.variant with
  | v1Early =>
    have hfive : minLen p = 5 := by simp [minLen, hv, hc, constants]
    omega
  | v2Crc =>
    have htwo : 2 ≤ minLen p := (minLen_legal hp).1
    have hsync : p.consts.sync ≠ lo (computeCrc p.consts []) := by
      rw [hc]
      decide
    have hne : raw.length ≠ 2 := length_ne_two_of_validateFrame (verifyRxCrc_v2Crc hv) hval hsync
    omega

/-- Settles O19: the two sides of the guard, the ROM entry ST_SEAL takes again, and the length validation leaves. -/
theorem dispatchStageLatchesTheCode : Obligations.DispatchStageLatchesTheCode := by
  unfold Obligations.DispatchStageLatchesTheCode
  refine ⟨fun s hp => ⟨fun hshort => ?_, fun c => stageDispatch_of_command_byte hp⟩, fun k hk => ?_,
    fun s c => exec_decodeCode c s, fun p raw => two_lt_length_of_validateFrame⟩
  · exact stageDispatch_of_no_command_byte hshort
  · exact ((constantsLegal_iff k).1 hk).1

/-! ### O30 -/

/-- Sealing a template that fits leaves the sealed template waiting (42_command_mux R102). -/
theorem sendResponse_sealed (template : List Byte) (d : Diag) (hp : s.phase = .proc)
    (hfits : template.length + 2 ≤ s.cfg.consts.txMax) :
    ∃ t, sendResponse template true d s = .next t ∧ Answered s t (sealBytes s.cfg.consts template) d :=
  ⟨_, sendResponse_ok hp ((sealBytes_length template).trans_le hfits), answered_answeredState template true d s⟩

/-- Settles O30: the response in `TXBUF` is the template followed by the two bytes of its CRC. -/
theorem sealingAppendsTheCrcOfTheTemplate : Obligations.SealingAppendsTheCrcOfTheTemplate := by
  unfold Obligations.SealingAppendsTheCrcOfTheTemplate
  intro s template d hp hfits
  obtain ⟨t, hnext, -, -, htxlen, -, -, -, -, hbytes⟩ := sendResponse_sealed template d hp hfits
  rw [sealBytes_length] at htxlen hbytes
  refine ⟨t, hnext, htxlen, fun i hi => ?_, ?_, ?_⟩
  · rw [hbytes i (by omega), sealBytes, List.getElem?_append_left hi]
  · simp [hbytes, sealBytes, crcField]
  · simp [hbytes, sealBytes, crcField]

/-! ### O31 -/

/-- ST_SEAL writes no byte of `TXBUF` at or beyond the end of its response (42_command_mux R102). -/
theorem answeredState_txbuf_beyond (template : List Byte) (sealed : Bool) (d : Diag) (s : State) {k : Nat}
    (hk : (answeredState template sealed d s).txlen ≤ k) :
    (answeredState template sealed d s).txbuf.get? k = s.txbuf.get? k := by
  have hlen : (responseBytes s.cfg.consts template sealed).length ≤ k := hk
  rw [answeredState_txbuf, get_writeBytes, if_neg (by omega)]

theorem sealFallback_v2Crc (hv : p.variant = .v2Crc) : sealFallback p = false := by
  simp [sealFallback, hv]

theorem sealFallback_v1Early (hv : p.variant = .v1Early) : sealFallback p = true := by
  simp [sealFallback, hv]

/-- What ST_SEAL leaves unchanged, sealing or not (43_port_operations R118). -/
theorem answeredState_frame (template : List Byte) (sealed : Bool) (d : Diag) (s : State)
    (ht : t = answeredState template sealed d s) :
    t.cfg = s.cfg ∧ t.claimed = s.claimed ∧ t.computed = s.computed ∧ t.cmd = s.cmd ∧ t.rxbuf = s.rxbuf ∧
      t.inputs = s.inputs ∧ t.sent = s.sent ∧ t.fresh = s.fresh := by
  subst ht
  cases sealed <;> exact ⟨rfl, rfl, rfl, rfl, rfl, rfl, rfl, rfl⟩

/-- Settles O31: the frame of ST_SEAL; without sealing the CRC engine is not used, so `ACC` and `IDX` stay too. -/
theorem commandsLeaveEverythingElse : Obligations.CommandsLeaveEverythingElse := by
  unfold Obligations.CommandsLeaveEverythingElse
  intro i s t hexec
  obtain ⟨ht, -⟩ := exec_next hexec
  obtain ⟨hcfg, hclaimed, hcomputed, hcmd, hrxbuf, hinputs, hsent, hfresh⟩ := answeredState_frame _ _ _ s ht
  refine ⟨hcfg, hclaimed, hcomputed, hcmd, hrxbuf, hinputs, hsent, hfresh, fun k hk => ?_, fun c hi hv => ?_⟩
  · subst ht
    exact answeredState_txbuf_beyond _ _ _ s hk
  · have hunsealed : sealedFor s.cfg i = false := hi ▸ sealFallback_v2Crc hv
    rw [ht, hunsealed]
    exact ⟨rfl, rfl⟩

/-! ### O33 -/

/-- A sealed request passes validation and is answered by its code alone (42_command_mux R104). -/
theorem processCommand_encodeRequest (hp : paramsLegal p = true) (r : Request) :
    processCommand p (encodeRequest p.consts r) = respondTo p (encodeCode p.consts r.instr) := by
  have hdec : decodeFrame p (encodeRequest p.consts r) =
      .ok ⟨decodeCode p.consts (encodeCode p.consts r.instr), r.metaByte, r.payload⟩ :=
    (decodeFrame_fields_iff hp).2 ⟨rfl, fun _ => joinWord_lo_hi _, rfl⟩
  rw [(processCommandAgreesWithTheDecoder p _ hp).2 _ hdec, (decodeCode_wf p.consts _).2]

/-- The answer to a code, from its entry in the ROM (42_command_mux R95, R102, R103). -/
theorem respondTo_of_romRead {c : Byte} {known : Bool} {template : List Byte}
    (h : romRead p.consts c = (known, template)) :
    respondTo p c =
      { response := some (responseBytes p.consts template (known || sealFallback p))
        diag := if known then .ok c else .unknown c } := by
  simp only [respondTo, h, responseBytes]

/-- Settles O33: a validated buffer is answered by its code byte, and the ROM knows the code of the sealed request. -/
theorem responseDependsOnTheCodeAlone : Obligations.ResponseDependsOnTheCodeAlone := by
  unfold Obligations.ResponseDependsOnTheCodeAlone
  refine ⟨fun p raw raw' c hp hval hval' hcode hcode' => ?_, fun p r hp hknown => ?_⟩
  · obtain ⟨hk, -⟩ := (paramsLegal_iff p).1 hp
    obtain ⟨hidx, -⟩ := (constantsLegal_iff _).1 hk
    rw [processCommand_of_validateFrame_eq_none hval, processCommand_of_validateFrame_eq_none hval', codeOf, codeOf,
      hidx, hcode, hcode']
  · rw [processCommand_encodeRequest hp, respondTo_of_romRead (Prod.ext hknown rfl)]
    rfl

/-! ### The commands that have a row, with the given constants -/

section GivenRow

variable {i : Instr} {row : ResponseRow} {w : Word} (hrow : rowOf constants i = some row)
  (hcrc : computeCrc constants row.template = w)
include hrow hcrc

/-- The command completes in PROC with its row's template and CRC waiting. -/
theorem exec_answers_row (s : State) (hp : s.phase = .proc) (hc : s.cfg.consts = constants) :
    ∃ t, exec i s = .next t ∧ Answered s t (row.template ++ crcField w) (.ok row.code) := by
  obtain ⟨t, hexec, hans, -⟩ := everyCommandAnswersItsRow i s hp (hc ▸ constants_legal)
  refine ⟨t, hexec, ?_⟩
  rw [hc] at hans
  exact hcrc ▸ hans row hrow

/-- The command's sealed request gets its row's template and CRC, whatever its META and payload. -/
theorem processCommand_answers_row (p : Params) (m : Byte) (payload : List Byte) (hp : paramsLegal p = true)
    (hc : p.consts = constants) :
    processCommand p (encodeRequest constants ⟨i, m, payload⟩) =
      { response := some (row.template ++ crcField w), diag := .ok row.code } := by
  obtain ⟨hmem, hcode⟩ := rowOf_mem_tableRows hrow
  have hrom : romRead p.consts row.code = (true, row.template) := hc ▸ romRead_row constants_legal hmem
  rw [← hc, processCommand_encodeRequest hp, hc, ← hcode, respondTo_of_romRead hrom, ← hcrc, hc]
  rfl

end GivenRow

/-! ### O22 to O26 -/

/-- A waiting response ends at `TXLEN` (10_state R14). -/
theorem txlen_of_answered {resp : List Byte} {d : Diag} (h : Answered s t resp d) : t.txlen = resp.length := by
  obtain ⟨-, -, htxlen, -⟩ := h
  exact htxlen

/-- Settles O22: the row of QUERY_ID and the CRC of its template. -/
theorem queryIdAnswersTheIdentity : Obligations.QueryIdAnswersTheIdentity := by
  unfold Obligations.QueryIdAnswersTheIdentity
  have hcrc : computeCrc constants constants.respTable.queryId.template = 0x7A86 := by decide +kernel
  exact ⟨exec_answers_row rfl hcrc, hcrc, processCommand_answers_row rfl hcrc, by decide +kernel⟩

/-- Settles O23: the row of ABORT_TX, the CRC of its template, and the frame that every command has. -/
theorem abortTxAnswersOnly : Obligations.AbortTxAnswersOnly := by
  unfold Obligations.AbortTxAnswersOnly
  have hcrc : computeCrc constants constants.respTable.abortTx.template = 0xF642 := by decide +kernel
  refine ⟨fun s hp hc => ?_, hcrc, processCommand_answers_row rfl hcrc, by decide +kernel⟩
  obtain ⟨t, hexec, hans⟩ := exec_answers_row (i := .abortTx) rfl hcrc s hp hc
  obtain ⟨hcfg, hclaimed, hcomputed, hcmd, hrxbuf, hinputs, hsent, hfresh, hbeyond, -⟩ :=
    commandsLeaveEverythingElse _ s t hexec
  exact ⟨t, hexec, hans, hcfg, hinputs, hsent, hrxbuf, hclaimed, hcomputed, hcmd, hfresh,
    fun i hi => hbeyond i ((txlen_of_answered hans).trans_le hi)⟩

/-- Settles O24: the row of APPLY_CFG, the CRC of its template, and the configuration, which no command changes. -/
theorem applyCfgAnswersAndChangesNoConfiguration : Obligations.ApplyCfgAnswersAndChangesNoConfiguration := by
  unfold Obligations.ApplyCfgAnswersAndChangesNoConfiguration
  have hcrc : computeCrc constants constants.respTable.applyCfg.template = 0xA1EF := by decide +kernel
  refine ⟨fun s hp hc => ?_, hcrc, processCommand_answers_row rfl hcrc, by decide +kernel⟩
  obtain ⟨t, hexec, hans⟩ := exec_answers_row (i := .applyCfg) rfl hcrc s hp hc
  obtain ⟨hcfg, -⟩ := commandsLeaveEverythingElse _ s t hexec
  exact ⟨t, hexec, hans, hcfg⟩

/-- Settles O25: the row of SEND_DATA and the CRC of its template. -/
theorem sendDataAnswersWhateverThePayload : Obligations.SendDataAnswersWhateverThePayload := by
  unfold Obligations.SendDataAnswersWhateverThePayload
  have hcrc : computeCrc constants constants.respTable.sendData.template = 0xC4D9 := by decide +kernel
  exact ⟨exec_answers_row rfl hcrc, hcrc, processCommand_answers_row rfl hcrc, by decide +kernel,
    by decide +kernel⟩

/-- Settles O26: the row of QUERY_BURST and the CRC of its template. -/
theorem queryBurstAnswersAConstant : Obligations.QueryBurstAnswersAConstant := by
  unfold Obligations.QueryBurstAnswersAConstant
  have hcrc : computeCrc constants constants.respTable.queryBurst.template = 0x33F4 := by decide +kernel
  exact ⟨exec_answers_row rfl hcrc, hcrc, processCommand_answers_row rfl hcrc, by decide +kernel⟩

/-! ### O27 -/

/-- A code outside the recognized five is `UNKNOWN`, and the ROM has the fallback for it (30_encoding R50, R53). -/
theorem unrecognized_code {c : Byte} (h00 : c ≠ 0x00) (h01 : c ≠ 0x01) (h03 : c ≠ 0x03) (h04 : c ≠ 0x04)
    (h06 : c ≠ 0x06) : decodeCode constants c = .unknown c ∧ romRead constants c = (false, constants.fallback) := by
  rw [decodeCode_eq, romRead_eq]
  simp only [h00, h01, h03, h04, h06, if_false, true_and]
  rfl

/-- The answer with the given fallback, in each variant (42_command_mux R101, R103). -/
theorem responseBytes_fallback (hcrc : computeCrc constants constants.fallback = 0x4AD9) (p : Params) :
    (p.variant = .v2Crc → responseBytes constants constants.fallback (sealFallback p) = [0xAA, 0xFF, 0xFF]) ∧
      (p.variant = .v1Early →
        responseBytes constants constants.fallback (sealFallback p) = [0xAA, 0xFF, 0xFF, 0xD9, 0x4A]) := by
  refine ⟨fun hv => ?_, fun hv => ?_⟩
  · rw [sealFallback_v2Crc hv]
    rfl
  · rw [sealFallback_v1Early hv, responseBytes, if_pos rfl, sealBytes, hcrc]
    rfl

/-- Settles O27: the fallback is sealed in `V1_EARLY` only, for the command and for the request of any other code. -/
theorem unknownAnswersTheFallback : Obligations.UnknownAnswersTheFallback := by
  unfold Obligations.UnknownAnswersTheFallback
  have hcrc : computeCrc constants constants.fallback = 0x4AD9 := by decide +kernel
  refine ⟨fun s c hp hc => ?_, hcrc, fun c h00 h01 h03 h04 h06 => ?_, by decide +kernel⟩
  · obtain ⟨hv2, hv1⟩ := responseBytes_fallback hcrc s.cfg
    obtain ⟨t, hexec, hans⟩ := exec_answered (.unknown c) hp (hc ▸ constants_legal)
    rw [hc] at hans
    exact ⟨t, hexec, fun hv => hv2 hv ▸ hans, fun hv => hv1 hv ▸ hans⟩
  · obtain ⟨hdec, hrom⟩ := unrecognized_code h00 h01 h03 h04 h06
    refine ⟨hdec, fun p m payload hp hc => ?_⟩
    obtain ⟨hv2, hv1⟩ := responseBytes_fallback hcrc p
    have hresult : processCommand p (encodeRequest constants ⟨.unknown c, m, payload⟩) =
        { response := some (responseBytes constants constants.fallback (sealFallback p)), diag := .unknown c } := by
      rw [← hc, processCommand_encodeRequest hp, respondTo_of_romRead (hc ▸ hrom)]
      rfl
    exact ⟨fun hv => hv2 hv ▸ hresult, fun hv => hv1 hv ▸ hresult⟩

/-! ### O28 -/

/-- A buffer that passes ST_GUARD and claims a wrong CRC is rejected with both values (41_frame_validator R85). -/
theorem processCommand_of_wrong_crc (hlen : minLen p ≤ raw.length) (hsync : raw[0]? = some p.consts.sync)
    (hv : verifyRxCrc p = true) {claimed : Word} (hclaimed : claimedOf raw = some claimed)
    (hne : computeCrc p.consts (coveredBytes raw) ≠ claimed) :
    processCommand p raw = .raise (.crc (computeCrc p.consts (coveredBytes raw)) claimed) := by
  have hbad : crcBad (computeCrc p.consts (coveredBytes raw)) claimed = true := bne_iff_ne.2 hne
  apply processCommand_of_validateFrame_eq_some
  rw [validateFrame, guardCause_eq_none_iff.2 ⟨hlen, hsync⟩, hclaimed]
  simp only [hv, hbad, if_true]

/-- Settles O28: the fallback has the sync byte, and the CRC it claims is not that of its covered byte. -/
theorem unsealedFallbackFailsTheCrcCheck : Obligations.UnsealedFallbackFailsTheCrcCheck := by
  unfold Obligations.UnsealedFallbackFailsTheCrcCheck
  have hcrc : computeCrc constants [0xAA] = 0xFA28 := by decide +kernel
  have hclaimed : claimedOf constants.fallback = some 0xFFFF := by decide +kernel
  refine ⟨hclaimed, rfl, hcrc, fun p hc hmin hv => ?_⟩
  have hcovered : computeCrc p.consts (coveredBytes constants.fallback) = 0xFA28 := by
    rw [hc]
    exact hcrc
  have hsync : constants.fallback[0]? = some p.consts.sync := by
    rw [hc]
    rfl
  have hne : computeCrc p.consts (coveredBytes constants.fallback) ≠ 0xFFFF := by
    rw [hcovered]
    decide
  rw [processCommand_of_wrong_crc hmin hsync hv hclaimed hne, hcovered]
  rfl

end Sys2Proof.Proofs

end

/-! PROOFS. The operations of the host: what a step does where the next one is enabled, where it is held, and the event that
ends a transaction (43_port_operations R115 to R122). -/

section

namespace Sys2Proof.Proofs

open Sys2Proof.Machine Sys2Proof.Safety Sys2Proof.Laws

variable {s t : State}

/-! ### A step, enabled or held -/

/-- An enabled operation leaves the queue and has its effect. -/
theorem step_eq_perform {op : HostOp} {rest : List HostOp} (hi : s.inputs = op :: rest)
    (he : opEnabled op s.phase = true) : step s = perform op (setInputs rest s) := by
  rw [step, sequenceStep, hi]
  exact if_pos he

/-- Where an operation is held, the block goes on by itself (43_port_operations R120). -/
theorem step_eq_advance_of_held {op : HostOp} {rest : List HostOp} (hi : s.inputs = op :: rest)
    (he : opEnabled op s.phase = false) : step s = advance s := by
  rw [step, sequenceStep, hi]
  exact if_neg (by simp [he])

/-- Where the host asks for nothing, the block goes on by itself. -/
theorem step_eq_advance_of_silent (hi : s.inputs = []) : step s = advance s := by
  rw [step, sequenceStep, hi]

theorem advance_of_ne_proc (hp : s.phase ≠ .proc) : advance s = .next s :=
  if_neg hp

theorem advance_of_proc (hp : s.phase = .proc) : advance s = runStage s :=
  if_pos hp

/-! ### O36 -/

/-- A buffer has room below its capacity, where it has one (43_port_operations R116). -/
theorem rxHasRoom_eq_true {p : Params} {n : Nat} : rxHasRoom p n = true ↔ ∀ m, p.rxMax = some m → n < m := by
  unfold rxHasRoom
  cases p.rxMax <;> simp

/-- RX_BYTE with room stores the byte at the end of the received ones. -/
theorem step_rxByte_of_room {b : Byte} {rest : List HostOp} (hi : s.inputs = .rxByte b :: rest) (hp : s.phase = .recv)
    (hroom : rxHasRoom s.cfg s.rxlen = true) :
    step s = .next { s with inputs := rest, rxbuf := s.rxbuf.set s.rxlen b, rxlen := s.rxlen + 1 } := by
  rw [step_eq_perform hi (by rw [hp]; rfl)]
  exact opRxByte_of_room (s := setInputs rest s) hp hroom

/-- RX_BYTE on a full buffer only sets the overflow mark. -/
theorem step_rxByte_of_full {b : Byte} {rest : List HostOp} (hi : s.inputs = .rxByte b :: rest) (hp : s.phase = .recv)
    (hfull : rxHasRoom s.cfg s.rxlen = false) : step s = .next { s with inputs := rest, rxovf := true } := by
  rw [step_eq_perform hi (by rw [hp]; rfl)]
  exact opRxByte_of_full (s := setInputs rest s) hfull

/-- Settles O36: with room the byte is written at `RXLEN`, and a write leaves every other index alone. -/
theorem rxByteAppendsOrMarksOverflow : Obligations.RxByteAppendsOrMarksOverflow := by
  unfold Obligations.RxByteAppendsOrMarksOverflow
  refine fun s b rest hi hp => ⟨fun hroom => ?_, fun m hm hfull => ?_⟩
  · exact ⟨_, step_rxByte_of_room hi hp (rxHasRoom_eq_true.2 hroom), get_set_same _ _ b,
      fun i hne => get_set_other _ b hne.symm⟩
  · exact step_rxByte_of_full hi hp (rxHasRoom_eq_false.2 ⟨m, hm, hfull⟩)

/-! ### O37 -/

/-- Settles O37: in RECV the end mark is enabled, and its effect is the start of ST_GUARD. -/
theorem rxEndStartsTheTransaction : Obligations.RxEndStartsTheTransaction := by
  unfold Obligations.RxEndStartsTheTransaction
  intro s rest hi hp
  rw [step_eq_perform hi (by rw [hp]; rfl)]
  rfl

/-! ### O38 -/

/-- Settles O38: the read at `TXPTR` is legal, so the host gets that byte. -/
theorem txPopDeliversInIndexOrder : Obligations.TxPopDeliversInIndexOrder := by
  unfold Obligations.TxPopDeliversInIndexOrder
  intro s rest b hi hp hlt hb
  have hread : txRead (setInputs rest s) s.txptr = .ok b := txRead_ok.2 ⟨hp, hlt, hb⟩
  rw [step_eq_perform hi (by rw [hp]; rfl), perform, opTxPop, setInputs_txptr, hread]
  rfl

/-! ### O39 -/

/-- RESET is enabled in every phase (43_port_operations R122). -/
theorem step_reset {rest : List HostOp} (hi : s.inputs = .reset :: rest) :
    step s = .next (resetBlock (setInputs rest s)) :=
  step_eq_perform hi rfl

/-- Settles O39: both states are idle, and no register that differs between idle states is live. -/
theorem resetGivesTheIdleState : Obligations.ResetGivesTheIdleState := by
  unfold Obligations.ResetGivesTheIdleState
  intro s rest hi
  have hidle : Idle { State.reset with cfg := s.cfg, inputs := rest } := ⟨rfl, rfl, rfl, rfl, rfl, rfl⟩
  exact ⟨_, step_reset hi, idle_resetBlock _, rfl, rfl, rfl, rfl, liveAgree_of_idle (idle_resetBlock _) hidle rfl rfl⟩

/-! ### O41 -/

/-- RX_BYTE and RX_END are held outside RECV, TX_POP outside SEND (43_port_operations R120). -/
theorem opEnabled_eq_false {op : HostOp} {ph : Phase}
    (h : ph ≠ .recv ∧ (op = .rxEnd ∨ ∃ b, op = .rxByte b) ∨ ph ≠ .send ∧ op = .txPop) : opEnabled op ph = false := by
  obtain ⟨hne, rfl | ⟨b, rfl⟩⟩ | ⟨hne, rfl⟩ := h <;> exact beq_false_of_ne hne

/-- An operation that its phase holds leaves the step to the block. -/
theorem step_of_held {op : HostOp} {rest : List HostOp} (hi : s.inputs = op :: rest)
    (h : s.phase ≠ .recv ∧ (op = .rxEnd ∨ ∃ b, op = .rxByte b) ∨ s.phase ≠ .send ∧ op = .txPop) :
    step s = advance s :=
  step_eq_advance_of_held hi (opEnabled_eq_false h)

/-- Settles O41: a held operation leaves the step to the block, which outside PROC waits and in PROC runs the stage. -/
theorem heldOperationsHaveNoStep : Obligations.HeldOperationsHaveNoStep := by
  unfold Obligations.HeldOperationsHaveNoStep
  refine ⟨fun s op rest hi hp hop => ?_, fun s rest hi hp => ?_, fun s op rest hi hp hop => ?_,
    fun s op rest => step_of_held, fun s hi hp => ?_⟩
  · have hrecv : s.phase ≠ .recv := by simp [hp]
    rw [step_of_held hi (.inl ⟨hrecv, hop⟩), advance_of_ne_proc (by simp [hp])]
  · have hsend : s.phase ≠ .send := by simp [hp]
    rw [step_of_held hi (.inr ⟨hsend, rfl⟩), advance_of_ne_proc (by simp [hp])]
  · have hrecv : s.phase ≠ .recv := by simp [hp]
    have hsend : s.phase ≠ .send := by simp [hp]
    rw [step_of_held hi (by tauto), advance_of_proc hp]
  · rw [step_eq_advance_of_silent hi, advance_of_ne_proc hp]

/-! ### O43 -/

/-- Where the byte at `TXPTR` is written, `tx_data` shows it, and `tx_last` marks the index before `TXLEN`
(43_port_operations R115). -/
theorem txPins_of_send (k : Nat) {b : Byte} (hp : s.phase = .send) (hlt : s.txptr < s.txlen)
    (hb : s.txbuf.get? s.txptr = some b) : pinTxData k s = b ∧ (pinTxLast s = true ↔ s.txptr = s.txlen - 1) := by
  have hread : txRead s s.txptr = .ok b := txRead_ok.2 ⟨hp, hlt, hb⟩
  refine ⟨by rw [pinTxData, hread], ?_⟩
  rw [pinTxLast, pinTxValid, hp]
  simp only [beq_self_eq_true, Bool.true_and, decide_eq_true_eq]
  omega

/-- `diag_valid` is 1 exactly with an event (43_port_operations R121). -/
theorem diagPins_valid (k : Nat) (d : Option Diag) : (diagPins k d).valid = d.isSome := by
  match d with
  | none | some (.ok _) | some (.unknown _) => rfl
  | some (.rejected c) => cases c <;> rfl

/-- Settles O43: each pin is a test of the phase or a field of the event, and the accepted operations are read off the
input pins in each phase. -/
theorem pinsFollowTheState : Obligations.PinsFollowTheState := by
  unfold Obligations.PinsFollowTheState
  refine ⟨fun k s => ⟨beq_iff_eq, beq_iff_eq, fun b hp hlt hb => txPins_of_send k hp hlt hb⟩,
    fun k c computed claimed => ⟨rfl, rfl, rfl, rfl, rfl, rfl, rfl, rfl, rfl, rfl⟩, diagPins_valid,
    fun b r => ⟨rfl, rfl, rfl, rfl⟩, fun b v e => ⟨rfl, rfl⟩, fun b v e r => rfl, fun ph b v e r => rfl⟩

/-! ### O44 -/

/-- At ST_SEAL the block runs the command that the latched code decodes to (43_port_operations R118). -/
theorem advance_of_sealing (hp : s.phase = .proc) (hst : s.stage = .sealing) :
    advance s = exec (decodeCode s.cfg.consts s.cmd) s := by
  rw [advance_of_proc hp, runStage, hst]

/-- Settles O44: in PROC the block goes on, also behind a wait, which only leaves the queue. -/
theorem stepRunsTheDecodedCommand : Obligations.StepRunsTheDecodedCommand := by
  unfold Obligations.StepRunsTheDecodedCommand
  refine fun s hp hst => ⟨fun hquiet => ?_, fun rest hi => ?_⟩
  · rw [step_eq_runStage hp hquiet, ← advance_of_proc hp, advance_of_sealing hp hst]
  · rw [step_eq_perform hi rfl]
    exact advance_of_sealing (s := setInputs rest s) hp hst

/-! ### O47 -/

/-- A stage that stays in PROC emits no event, one that leaves it emits exactly one (43_port_operations R121). -/
theorem stageCase_diags (hp : s.phase = .proc) (h : StageCase s t) :
    t.phase = .proc ∧ t.diags = s.diags ∨ t.phase ≠ .proc ∧ ∃ d, t.diags = s.diags ++ [d] := by
  cases h with
  | guardPasses | extractPasses | verifyPasses | dispatchPasses => exact .inl ⟨hp, rfl⟩
  | rejects c => exact .inr ⟨nofun, .rejected c, rfl⟩
  | answers resp d => exact .inr ⟨nofun, d, rfl⟩

/-- Outside PROC no step emits an event. -/
theorem stepCase_diags_outside (hp : s.phase ≠ .proc) (h : StepCase s t) : t.diags = s.diags := by
  cases h with
  | stage l hproc => exact absurd hproc hp
  | waits | receives | overflows | begins | pops | popsLast | resets | straps => rfl

/-- Of what can happen in PROC, only the stage and a reset have a step. -/
theorem stepCase_in_proc (hp : s.phase = .proc) (h : StepCase s t) :
    (∃ l, StageCase (setInputs l s) t) ∨ ∃ rest, s.inputs = .reset :: rest := by
  cases h with
  | stage l _ hst => exact .inl ⟨l, hst⟩
  | resets rest hi => exact .inr ⟨rest, hi⟩
  | waits l hne | straps pin rest hi hne => exact absurd hp hne
  | receives b rest hph | overflows b rest hi hph | begins rest hph | pops b rest hph | popsLast b rest hph =>
    exact absurd (hp.symm.trans hph) nofun

/-- Settles O47: only a stage emits an event, and exactly where it leaves PROC. -/
theorem oneEventPerTransaction : Obligations.OneEventPerTransaction := by
  unfold Obligations.OneEventPerTransaction
  refine fun s t hstep => ⟨fun ⟨rest, hi⟩ => ?_, fun hnoreset => ?_⟩
  · rw [step_reset hi] at hstep
    exact Host.Outcome.next.inj hstep ▸ rfl
  have hcase := step_cases hstep
  by_cases hp : s.phase = .proc
  · obtain ⟨l, hst⟩ | ⟨rest, hi⟩ := stepCase_in_proc hp hcase
    · obtain ⟨hin, hnone⟩ | ⟨hout, hone⟩ := stageCase_diags (s := setInputs l s) hp hst
      · exact ⟨fun _ hleft => absurd hin hleft, fun _ => hnone⟩
      · exact ⟨fun _ _ => hone, fun hor => absurd hor (not_or.2 ⟨not_not.2 hp, hout⟩)⟩
    · exact absurd hi (hnoreset rest)
  · exact ⟨fun hproc => absurd hproc hp, fun _ => stepCase_diags_outside hp hcase⟩

end Sys2Proof.Proofs

end

/-! PROOFS. A transaction from the end mark to its response: each stage makes the step its part of `process_command` asks
for, and SUBMIT and DRAIN show the result (41_frame_validator R81, 43_port_operations R118, R123). -/

section

namespace Sys2Proof.Proofs

open Sys2Proof.Machine Sys2Proof.Safety Sys2Proof.Laws

variable {p : Params} {s t u : State} {raw : List Byte} {res : Result}

/-! ### The step of each stage -/

/-- In PROC at a stage, with the bytes `raw` in the buffer and nothing from the host that has a step. -/
structure AtStage (st : Stage) (raw : List Byte) (s : State) : Prop where
  phase : s.phase = .proc
  stage : s.stage = st
  frame : HoldsFrame s raw
  legal : paramsLegal s.cfg = true
  quiet : HostHeldOrSilent s

theorem AtStage.step_eq {st : Stage} (h : AtStage st raw s) : step s = runStage s :=
  step_eq_runStage h.phase h.quiet

theorem AtStage.consts_legal {st : Stage} (h : AtStage st raw s) : constantsLegal s.cfg.consts = true :=
  ((paramsLegal_iff _).1 h.legal).1

/-- Where ST_GUARD looks at byte 0 there is one, since the least length is 2 or more (41_frame_validator R82). -/
theorem pos_of_guardReadsFirst (hp : paramsLegal p = true) {n : Nat} (h : guardReadsFirst p n = true) : 0 < n := by
  have hmin := (minLen_legal hp).1
  unfold guardReadsFirst at h
  split at h
  next =>
    have hlong : minLen p ≤ n := by simpa [tooShort] using h
    omega
  next => exact Nat.pos_of_ne_zero (by simpa using h)

/-- A buffer whose byte 0 ST_GUARD does not look at is too short. -/
theorem guardCause_of_first_unread (h : guardReadsFirst p raw.length = false) :
    guardCause p raw.length raw[0]? = some .short := by
  unfold guardReadsFirst at h
  split at h
  next hlen =>
    have hshort : tooShort p raw.length = true := by simpa using h
    unfold guardCause
    rw [if_pos hlen, if_pos hshort]
  next =>
    obtain rfl : raw = [] := List.length_eq_zero_iff.1 (by simpa using h)
    exact guardCause_first_none p _

/-- ST_GUARD without overflow passes the buffer on or rejects it with the first check that fails. -/
theorem AtStage.step_guard (h : AtStage .guard raw s) (hovf : s.rxovf = false) :
    step s = (guardCause s.cfg raw.length raw[0]?).elim (.next (setStage .extract s)) fun c => .next (reject c s) := by
  obtain ⟨hlen, hbytes⟩ := h.frame
  have hstep : step s = stageGuard s := by rw [h.step_eq, runStage, h.stage]
  rw [hstep]
  cases hread : guardReadsFirst s.cfg s.rxlen with
  | true =>
    have hpos : 0 < s.rxlen := pos_of_guardReadsFirst h.legal hread
    have hpos' : 0 < raw.length := hlen ▸ hpos
    have hfirst : raw[0]? = some raw[0] := List.getElem?_eq_getElem hpos'
    rw [stageGuard_of_first_read h.phase hovf hread hpos ((hbytes 0 hpos').trans hfirst), hfirst, hlen]
  | false =>
    rw [stageGuard_of_first_unread hovf hread, guardCause_of_first_unread (hlen ▸ hread)]
    rfl

/-- ST_EXTRACT latches the claimed CRC of the buffer. -/
theorem AtStage.step_extract (h : AtStage .extract raw s) (hlen : 2 ≤ raw.length) :
    ∃ w, claimedOf raw = some w ∧ step s = .next (setStage .verify (setClaimed w s)) := by
  obtain ⟨body, low, high, rfl⟩ := exists_append_pair hlen
  obtain ⟨hrxlen, hbytes⟩ := h.frame
  have hlow : s.rxbuf.get? (s.rxlen - 2) = some low := by
    rw [hrxlen, hbytes _ (by simp)]
    simp
  have hhigh : s.rxbuf.get? (s.rxlen - 1) = some high := by
    rw [hrxlen, hbytes _ (by simp)]
    simp
  refine ⟨_, claimedOf_append_pair body low high, ?_⟩
  rw [h.step_eq, runStage, h.stage]
  exact stageExtract_of_last_bytes h.phase (hrxlen ▸ hlen) hlow hhigh

/-- ST_VERIFY rejects exactly where the variant verifies and the covered bytes do not have the claimed CRC; the engine's
registers may move. -/
theorem AtStage.step_verify (h : AtStage .verify raw s) :
    ∃ a w n, step s =
      if verifyRxCrc s.cfg && crcBad (computeCrc s.cfg.consts (coveredBytes raw)) s.claimed then
        .next (reject (.crc (computeCrc s.cfg.consts (coveredBytes raw)) s.claimed) (setScratch a w n s))
      else .next (setStage .dispatch (setScratch a w n s)) := by
  have hstep : step s = stageVerify s := by rw [h.step_eq, runStage, h.stage]
  rw [hstep]
  cases hv : verifyRxCrc s.cfg with
  | true =>
    obtain ⟨hlen, hbytes⟩ := coveredBytes_of_holdsFrame h.frame
    exact ⟨_, _, _, stageVerify_of_covered h.phase hv hlen hbytes⟩
  | false =>
    refine ⟨s.acc, s.computed, s.idx, ?_⟩
    rw [stageVerify, hv]
    rfl

/-- ST_DISPATCH latches the code byte of the buffer, or rejects a buffer that has none. -/
theorem AtStage.step_dispatch (h : AtStage .dispatch raw s) :
    step s = (codeOf s.cfg.consts raw).elim (.next (reject .short s))
      fun c => .next (setStage .sealing (setCmd c s)) := by
  obtain ⟨hlen, hbytes⟩ := h.frame
  have hstep : step s = stageDispatch s := by rw [h.step_eq, runStage, h.stage]
  rw [hstep]
  cases hc : codeOf s.cfg.consts raw with
  | none => exact stageDispatch_of_no_command_byte (hlen ▸ List.getElem?_eq_none_iff.1 hc)
  | some c =>
    obtain ⟨hidx, -⟩ := List.getElem?_eq_some_iff.1 hc
    exact stageDispatch_of_command_byte h.phase (hlen ▸ hidx) ((hbytes _ hidx).trans hc)

/-- ST_SEAL answers from the ROM entry of the latched code. -/
theorem AtStage.step_sealing (h : AtStage .sealing raw s) :
    step s = .next (answeredState (romRead s.cfg.consts s.cmd).2 ((romRead s.cfg.consts s.cmd).1 || sealFallback s.cfg)
      (if (romRead s.cfg.consts s.cmd).1 then .ok s.cmd else .unknown s.cmd) s) := by
  have hfits := (template_fits h.consts_legal (romRead_mem s.cfg.consts s.cmd)).2
  have hstep : step s = answerFromRom s.cmd s := by rw [h.step_eq, runStage, h.stage, exec_decodeCode]
  rw [hstep]
  refine sendResponse_ok h.phase ?_
  unfold responseBytes
  split
  next => exact (sealBytes_length _).trans_le hfits
  next => omega

/-! ### O45 -/

/-- A buffer that passes validation passes the first three stages (41_frame_validator R82 to R86). -/
theorem AtStage.reaches_dispatch (h : AtStage .guard raw s) (hovf : s.rxovf = false)
    (hval : validateFrame s.cfg raw = none) :
    ∃ t, Host.Core.run Sys2Proof.core 3 s = .next t ∧ AtStage .dispatch raw t ∧ t.cfg = s.cfg ∧ t.inputs = s.inputs ∧
      t.diags = s.diags := by
  obtain ⟨hmin, hsync, claimed, hclaimed, hcrc⟩ := validateFrame_eq_none_iff.1 hval
  have hguard := h.step_guard hovf
  rw [guardCause_eq_none_iff.2 ⟨hmin, hsync⟩] at hguard
  have hatExtract : AtStage .extract raw (setStage .extract s) := { h with stage := rfl }
  obtain ⟨w, hw, hextract⟩ := hatExtract.step_extract ((minLen_legal h.legal).1.trans hmin)
  obtain rfl : claimed = w := Option.some.inj (hclaimed.symm.trans hw)
  have hatVerify : AtStage .verify raw (setStage .verify (setClaimed claimed (setStage .extract s))) :=
    { h with stage := rfl }
  obtain ⟨a, v, n, hverify⟩ := hatVerify.step_verify
  have hmatch : ¬ (verifyRxCrc s.cfg && crcBad (computeCrc s.cfg.consts (coveredBytes raw)) claimed) = true := by
    intro hbad
    obtain ⟨hv, hbad⟩ := Bool.and_eq_true_iff.1 hbad
    exact Bool.eq_false_iff.1 (crcBad_eq_false_iff.2 (hcrc hv)) hbad
  have hverify := hverify.trans (if_neg hmatch)
  have hrun := (run_succ 2 hguard).trans ((run_succ 1 hextract).trans (run_succ 0 hverify))
  exact ⟨_, hrun, { h with stage := rfl }, rfl, rfl, rfl⟩

/-- Settles O45: validation passes the first three stages, the code byte passes ST_DISPATCH, and ST_SEAL runs what the
latched code decodes to. -/
theorem decodedFrameReachesItsCommand : Obligations.DecodedFrameReachesItsCommand := by
  unfold Obligations.DecodedFrameReachesItsCommand
  intro s raw r hp hst hovf hframe hlegal hquiet hdec
  obtain ⟨hval, m, c, -, hcode, rfl⟩ := decodeFrame_eq_ok_iff.1 hdec
  have hat : AtStage .guard raw s := ⟨hp, hst, hframe, hlegal, hquiet⟩
  obtain ⟨t, hrun, hatDispatch, hcfg, hinputs, hdiags⟩ := hat.reaches_dispatch hovf hval
  have hdispatch := hatDispatch.step_dispatch
  rw [hcfg, hcode] at hdispatch
  have hatSealing : AtStage .sealing raw (setStage .sealing (setCmd c t)) := { hatDispatch with stage := rfl }
  have hsealing := (stepRunsTheDecodedCommand _ hatSealing.phase hatSealing.stage).1 hatSealing.quiet
  refine ⟨_, run_add hrun (run_succ 0 hdispatch), hatSealing.phase, hatSealing.stage,
    (decodeCode_wf s.cfg.consts c).2.symm, hinputs, hdiags, ?_⟩
  rw [← hcfg]
  exact hsealing

/-! ### How a transaction ends -/

/-- From `s` the transaction has ended in `t` with the result `res`: idle after a rejection, or with the response waiting;
one event more, and nothing else that the host sees has changed. -/
def Ends (s t : State) (res : Result) : Prop :=
  t.cfg = s.cfg ∧ t.inputs = s.inputs ∧ t.sent = s.sent ∧
    (res.response = none → Idle t ∧ t.diags = s.diags ++ [res.diag]) ∧
    ∀ resp, res.response = some resp → Answered s t resp res.diag

/-- The block ends the transaction with the result `res` in at most `n` steps. -/
def EndsWithin (n : Nat) (s : State) (res : Result) : Prop :=
  ∃ k t, k ≤ n ∧ Host.Core.run Sys2Proof.core k s = .next t ∧ Ends s t res

theorem phase_ne_proc_of_ends (h : Ends s t res) : t.phase ≠ .proc := by
  obtain ⟨-, -, -, hnone, hsome⟩ := h
  cases hresp : res.response with
  | none =>
    obtain ⟨⟨hphase, -⟩, -⟩ := hnone hresp
    simp [hphase]
  | some resp =>
    obtain ⟨hphase, -⟩ := hsome resp hresp
    simp [hphase]

/-- A rejection ends as `raise` in the function does (60_exceptions R137). -/
theorem ends_reject (c : Cause) (s : State) : Ends s (reject c s) (.raise c) :=
  ⟨rfl, rfl, rfl, fun _ => ⟨idle_reject c s, rfl⟩, nofun⟩

/-- ST_SEAL ends as stages 4 and 5 of the function do (41_frame_validator R81). -/
theorem ends_answeredState (s : State) (c : Byte) :
    Ends s (answeredState (romRead s.cfg.consts c).2 ((romRead s.cfg.consts c).1 || sealFallback s.cfg)
      (if (romRead s.cfg.consts c).1 then .ok c else .unknown c) s) (respondTo s.cfg c) := by
  obtain ⟨hcfg, -, -, -, -, hinputs, hsent, -⟩ := answeredState_frame _ _ _ s rfl
  refine ⟨hcfg, hinputs, hsent, nofun, fun resp hresp => ?_⟩
  obtain rfl := Option.some.inj hresp
  exact answered_answeredState _ _ _ s

theorem endsWithin_of_end {n : Nat} (h : step s = .next t) (ht : Ends s t res) : EndsWithin (n + 1) s res :=
  ⟨1, t, Nat.le_add_left 1 n, run_succ 0 h, ht⟩

/-- One step more, after which the host has seen nothing new. -/
theorem endsWithin_of_step {n : Nat} (h : step s = .next u) (hsame : ∀ t, Ends u t res → Ends s t res)
    (hu : EndsWithin n u res) : EndsWithin (n + 1) s res := by
  obtain ⟨k, t, hk, hrun, ht⟩ := hu
  exact ⟨k + 1, t, Nat.succ_le_succ hk, (run_succ k h).trans hrun, hsame t ht⟩

theorem endsWithin_mono {m n : Nat} (hmn : m ≤ n) (h : EndsWithin m s res) : EndsWithin n s res := by
  obtain ⟨k, t, hk, hend⟩ := h
  exact ⟨k, t, hk.trans hmn, hend⟩

/-! ### What is left of the function at each stage -/

/-- Stages 4 and 5 of R81, behind the guard of ST_DISPATCH. -/
def dispatchResult (p : Params) (raw : List Byte) : Result :=
  (codeOf p.consts raw).elim (.raise .short) (respondTo p)

/-- Stages 3 to 5 of R81, for the value `claimed` in the latch. -/
def verifyResult (p : Params) (claimed : Word) (raw : List Byte) : Result :=
  if verifyRxCrc p && crcBad (computeCrc p.consts (coveredBytes raw)) claimed then
    .raise (.crc (computeCrc p.consts (coveredBytes raw)) claimed)
  else dispatchResult p raw

/-- Behind ST_GUARD the function is what these stages give for the claimed CRC of the buffer. -/
theorem processChecked_eq_elim (p : Params) (raw : List Byte) :
    processChecked p raw = (claimedOf raw).elim (.raise .short) (verifyResult p · raw) := by
  unfold processChecked verifyResult dispatchResult codeOf crcBad
  cases claimedOf raw with
  | none => rfl
  | some w => cases raw[p.consts.cmdIndex]? <;> rfl

theorem AtStage.endsWithin_sealing (h : AtStage .sealing raw s) : EndsWithin 1 s (respondTo s.cfg s.cmd) :=
  endsWithin_of_end h.step_sealing (ends_answeredState s s.cmd)

theorem AtStage.endsWithin_dispatch (h : AtStage .dispatch raw s) : EndsWithin 2 s (dispatchResult s.cfg raw) := by
  have hstep := h.step_dispatch
  unfold dispatchResult
  cases hc : codeOf s.cfg.consts raw with
  | none =>
    rw [hc] at hstep
    exact endsWithin_of_end hstep (ends_reject .short s)
  | some c =>
    have hnext : AtStage .sealing raw (setStage .sealing (setCmd c s)) := { h with stage := rfl }
    rw [hc] at hstep
    exact endsWithin_of_step hstep (fun _ => id) hnext.endsWithin_sealing

theorem AtStage.endsWithin_verify (h : AtStage .verify raw s) :
    EndsWithin 3 s (verifyResult s.cfg s.claimed raw) := by
  obtain ⟨a, w, n, hstep⟩ := h.step_verify
  unfold verifyResult
  split at hstep
  next hbad =>
    rw [if_pos hbad]
    exact endsWithin_of_end hstep (ends_reject _ (setScratch a w n s))
  next hgood =>
    have hnext : AtStage .dispatch raw (setStage .dispatch (setScratch a w n s)) := { h with stage := rfl }
    rw [if_neg hgood]
    exact endsWithin_of_step hstep (fun _ => id) hnext.endsWithin_dispatch

theorem AtStage.endsWithin_extract (h : AtStage .extract raw s) (hlen : 2 ≤ raw.length) :
    EndsWithin 4 s (processChecked s.cfg raw) := by
  obtain ⟨w, hw, hstep⟩ := h.step_extract hlen
  have hnext : AtStage .verify raw (setStage .verify (setClaimed w s)) := { h with stage := rfl }
  rw [processChecked_eq_elim, hw]
  exact endsWithin_of_step hstep (fun _ => id) hnext.endsWithin_verify

/-- From ST_GUARD the stages compute the whole function, with the overflow check in front (43_port_operations R118). -/
theorem AtStage.endsWithin_guard (h : AtStage .guard raw s) : EndsWithin 5 s (processEvent s.cfg s.rxovf raw) := by
  cases hovf : s.rxovf with
  | true =>
    have hstep : step s = .next (reject .overflow s) := by
      rw [h.step_eq, runStage, h.stage]
      exact if_pos hovf
    exact endsWithin_of_end hstep (ends_reject .overflow s)
  | false =>
    have hstep := h.step_guard hovf
    rw [processEvent, if_neg Bool.false_ne_true, processCommand_eq_guardCause_elim]
    cases hcause : guardCause s.cfg raw.length raw[0]? with
    | some c =>
      rw [hcause] at hstep
      exact endsWithin_of_end hstep (ends_reject c s)
    | none =>
      rw [hcause] at hstep
      have hnext : AtStage .extract raw (setStage .extract s) := { h with stage := rfl }
      have hlen : 2 ≤ raw.length := (minLen_legal h.legal).1.trans (guardCause_none hcause).1
      exact endsWithin_of_step hstep (fun _ => id) (hnext.endsWithin_extract hlen)

/-! ### O56 -/

/-- Settles O56: from ST_GUARD on, each stage leaves its part of the function to the next one. -/
theorem transactionComputesProcessCommand : Obligations.TransactionComputesProcessCommand := by
  unfold Obligations.TransactionComputesProcessCommand
  intro s raw hp hst hframe hlegal hquiet
  exact AtStage.endsWithin_guard ⟨hp, hst, hframe, hlegal, hquiet⟩

/-! ### O53 -/

/-- A buffer whose bytes are all written holds some sequence. -/
theorem exists_holdsFrame (h : Filled s.rxbuf s.rxlen) : ∃ raw, HoldsFrame s raw := by
  refine ⟨List.ofFn fun i : Fin s.rxlen => (s.rxbuf.get? i).get (h i i.isLt), by simp, fun i hi => ?_⟩
  rw [List.length_ofFn] at hi
  simp [hi]

/-- Under the invariant a transaction ends from any of its stages, in at most five steps. -/
theorem exists_endsWithin (h : Inv s) (hp : s.phase = .proc) (hquiet : HostHeldOrSilent s) :
    ∃ res, EndsWithin 5 s res := by
  obtain ⟨raw, hframe⟩ := exists_holdsFrame h.rxFilled
  obtain ⟨hne, -, -, hpast⟩ := (phaseOk_proc hp).1 h.phaseOk
  have hat : AtStage s.stage raw s := ⟨hp, rfl, hframe, h.legal, hquiet⟩
  cases hst : s.stage with
  | idle => exact absurd hst hne
  | guard => exact ⟨_, (hst ▸ hat).endsWithin_guard⟩
  | extract =>
    obtain ⟨-, hmin⟩ := hpast (by simp [hst])
    have hlen : 2 ≤ raw.length := hframe.1 ▸ (minLen_legal h.legal).1.trans hmin
    exact ⟨_, endsWithin_mono (by decide) ((hst ▸ hat).endsWithin_extract hlen)⟩
  | verify => exact ⟨_, endsWithin_mono (by decide) (hst ▸ hat).endsWithin_verify⟩
  | dispatch => exact ⟨_, endsWithin_mono (by decide) (hst ▸ hat).endsWithin_dispatch⟩
  | sealing => exact ⟨_, endsWithin_mono (by decide) (hst ▸ hat).endsWithin_sealing⟩

/-- Settles O53: the invariant makes every stage end, and no end of a transaction is in PROC. -/
theorem everyTransactionEnds : Obligations.EveryTransactionEnds := by
  unfold Obligations.EveryTransactionEnds
  intro s h hp hquiet
  obtain ⟨res, k, t, hk, hrun, hend⟩ := exists_endsWithin h hp hquiet
  exact ⟨k, t, hk, hrun, phase_ne_proc_of_ends hend⟩

end Sys2Proof.Proofs

end

/-! PROOFS. SUBMIT and DRAIN at the ports show the host the result of `process_command` (43_port_operations R123). -/

section

namespace Sys2Proof.Proofs

open Sys2Proof.Machine Sys2Proof.Safety Sys2Proof.Laws

variable {p : Params} {s t : State} {raw : List Byte} {rest : List HostOp}

/-! ### Pushing the bytes of a buffer -/

/-- The state after the bytes `raw` have been stored, with `rest` left of the queue. -/
def received (raw : List Byte) (rest : List HostOp) (s : State) : State :=
  { s with inputs := rest, rxbuf := writeBytes s.rxbuf s.rxlen raw, rxlen := s.rxlen + raw.length }

/-- Below a length that fits there is room for one byte more. -/
theorem rxHasRoom_of_rxFits {n k : Nat} (h : rxFits p k = true) (hn : n < k) : rxHasRoom p n = true := by
  refine rxHasRoom_eq_true.2 fun m hm => ?_
  have hk : k ≤ m := by simpa [rxFits, hm] using h
  omega

/-- Bytes stored in two parts. -/
theorem received_received (xs ys : List Byte) (l : List HostOp) (s : State) :
    received ys rest (received xs l s) = received (xs ++ ys) rest s := by
  simp only [received, writeBytes_append, List.length_append, Nat.add_assoc]

/-- Bytes that fit are all stored, in order (43_port_operations R116). -/
theorem run_rxBytes_of_fits (hp : s.phase = .recv) (hi : s.inputs = raw.map HostOp.rxByte ++ rest)
    (hfits : rxFits s.cfg (s.rxlen + raw.length) = true) :
    Host.Core.run Sys2Proof.core raw.length s = .next (received raw rest s) := by
  induction raw generalizing s with
  | nil =>
    obtain rfl : s.inputs = rest := hi
    rfl
  | cons b bs ih =>
    have hroom : rxHasRoom s.cfg s.rxlen = true := rxHasRoom_of_rxFits hfits (by simp)
    have hstep : step s = .next (received [b] (bs.map HostOp.rxByte ++ rest) s) := step_rxByte_of_room hi hp hroom
    have hrest : rxFits s.cfg (s.rxlen + 1 + bs.length) = true := by
      rwa [Nat.add_assoc, Nat.add_comm 1]
    rw [List.length_cons, run_succ _ hstep, ih (s := received [b] _ s) hp rfl hrest, received_received,
      List.singleton_append]

/-- On a full buffer every byte is discarded and the mark is set (43_port_operations R116). -/
theorem run_rxBytes_of_full (hp : s.phase = .recv) (hfull : rxHasRoom s.cfg s.rxlen = false) (hne : raw ≠ [])
    (hi : s.inputs = raw.map HostOp.rxByte ++ rest) :
    Host.Core.run Sys2Proof.core raw.length s = .next { s with inputs := rest, rxovf := true } := by
  induction raw generalizing s with
  | nil => exact absurd rfl hne
  | cons b bs ih =>
    rw [List.length_cons, run_succ _ (step_rxByte_of_full hi hp hfull)]
    cases bs with
    | nil => rfl
    | cons c cs => exact ih hp hfull (List.cons_ne_nil c cs) rfl

/-- Into an empty buffer the stored bytes are the read event. -/
theorem holdsFrame_received (hlen : s.rxlen = 0) : HoldsFrame (received raw rest s) raw := by
  refine ⟨?_, fun i hi => ?_⟩
  · simp [received, hlen]
  · simp [received, hlen, get_writeBytes, hi]

/-- A buffer that does not fit fills `RXBUF` with its first bytes, and the next one sets the mark. -/
theorem run_rxBytes_overflowing (hp : s.phase = .recv) (hlen : s.rxlen = 0)
    (hi : s.inputs = raw.map HostOp.rxByte ++ rest) (hlong : rxFits s.cfg raw.length = false) :
    ∃ stored, Host.Core.run Sys2Proof.core raw.length s =
      .next { received stored rest s with rxovf := true } := by
  obtain ⟨m, hm, hlt⟩ : ∃ m, s.cfg.rxMax = some m ∧ m < raw.length := by
    unfold rxFits at hlong
    cases hmax : s.cfg.rxMax with
    | none => simp [hmax] at hlong
    | some m => exact ⟨m, rfl, by simpa [hmax] using hlong⟩
  have hstored : (raw.take m).length = m := List.length_take_of_le hlt.le
  have hsplit : s.inputs = (raw.take m).map HostOp.rxByte ++ ((raw.drop m).map HostOp.rxByte ++ rest) := by
    rw [hi, ← List.append_assoc, ← List.map_append, List.take_append_drop]
  have hfits : rxFits s.cfg (s.rxlen + (raw.take m).length) = true := by simp [rxFits, hm, hlen, hstored]
  have hfull : rxHasRoom s.cfg (s.rxlen + (raw.take m).length) = false :=
    rxHasRoom_eq_false.2 ⟨m, hm, by omega⟩
  have hne : raw.drop m ≠ [] := by simpa using hlt
  have hrun := run_add (run_rxBytes_of_fits hp hsplit hfits)
    (run_rxBytes_of_full (s := received (raw.take m) ((raw.drop m).map HostOp.rxByte ++ rest) s) hp hfull hne rfl)
  rw [← List.length_append, List.take_append_drop] at hrun
  exact ⟨raw.take m, hrun⟩

/-! ### Popping a response -/

/-- The state after a byte `b` that is not the last one has been popped, with `rest` left of the queue. -/
def popped (b : Byte) (rest : List HostOp) (s : State) : State :=
  { s with inputs := rest, sent := s.sent ++ [(b, false)], txptr := s.txptr + 1 }

/-- The state after the bytes `bs` have been popped to the last one of the response. -/
def drained (bs : List Byte) (s : State) : State :=
  { s with inputs := [], sent := s.sent ++ marked bs, txlen := 0, txptr := 0, phase := .recv }

theorem drained_popped (b c : Byte) (cs : List Byte) (s : State) :
    drained (c :: cs) (popped b rest s) = drained (b :: c :: cs) s := by
  simp only [drained, popped, marked, List.append_assoc, List.cons_append, List.nil_append]

/-- One pop a byte: the host gets the bytes from `TXPTR` on, the last one marked, and the block is back in RECV
(43_port_operations R119). -/
theorem run_txPops {bs : List Byte} (hne : bs ≠ []) (hi : s.inputs = List.replicate bs.length .txPop)
    (hp : s.phase = .send) (hend : s.txptr + bs.length = s.txlen)
    (hbytes : ∀ i, i < bs.length → s.txbuf.get? (s.txptr + i) = bs[i]?) :
    Host.Core.run Sys2Proof.core bs.length s = .next (drained bs s) := by
  induction bs generalizing s with
  | nil => exact absurd rfl hne
  | cons b bs ih =>
    have hlast : s.txptr + (bs.length + 1) = s.txlen := hend
    have hpop := txPopDeliversInIndexOrder s (List.replicate bs.length .txPop) b hi hp (by omega) (hbytes 0 (by simp))
    cases bs with
    | nil =>
      have hstep : step s = .next (drained [b] s) := hpop.trans (if_pos (Nat.eq_sub_of_add_eq hlast))
      exact run_succ 0 hstep
    | cons c cs =>
      have hmore : s.txptr ≠ s.txlen - 1 := by
        rw [List.length_cons] at hlast
        omega
      have hstep : step s = .next (popped b (List.replicate (c :: cs).length .txPop) s) := hpop.trans (if_neg hmore)
      have hend' : s.txptr + 1 + (c :: cs).length = s.txlen := by omega
      have hbytes' : ∀ i, i < (c :: cs).length → s.txbuf.get? (s.txptr + 1 + i) = (c :: cs)[i]? := fun i hlt => by
        rw [Nat.add_assoc, Nat.add_comm 1]
        exact hbytes (i + 1) (Nat.succ_lt_succ hlt)
      have hrest := ih (s := popped b _ s) (List.cons_ne_nil c cs) rfl hp hend' hbytes'
      rw [drained_popped] at hrest
      exact (run_succ _ hstep).trans hrest

/-- With legal constants no response is empty (30_encoding R51). -/
theorem response_ne_nil (hp : paramsLegal p = true) {resp : List Byte}
    (h : (processCommand p raw).response = some resp) : resp ≠ [] := by
  cases hval : validateFrame p raw with
  | some c =>
    rw [processCommand_of_validateFrame_eq_some hval] at h
    exact absurd h nofun
  | none =>
    rw [processCommand_of_validateFrame_eq_none hval] at h
    cases hcode : codeOf p.consts raw with
    | none =>
      rw [hcode] at h
      exact absurd h nofun
    | some c =>
      rw [hcode] at h
      obtain rfl := Option.some.inj h
      have hlen := (template_fits ((paramsLegal_iff p).1 hp).1 (romRead_mem p.consts c)).1
      split
      next => simp [sealBytes, crcField]
      next => exact List.ne_nil_of_length_pos (by omega)

/-! ### O57 -/

/-- The end mark and the stages behind it give the result of the function, where the host waits or pops. -/
theorem run_from_rxEnd {n : Nat} (hp : s.phase = .recv) (hi : s.inputs = .rxEnd :: List.replicate n .txPop)
    (hframe : HoldsFrame s raw) (hlegal : paramsLegal s.cfg = true) :
    ∃ k t, Host.Core.run Sys2Proof.core k s = .next t ∧
      Ends (setInputs (List.replicate n .txPop) s) t (processEvent s.cfg s.rxovf raw) := by
  have hquiet : HostHeldOrSilent (setInputs (List.replicate n .txPop) s) := by
    cases n with
    | zero => exact .inl rfl
    | succ n => exact .inr ⟨.txPop, List.replicate n .txPop, rfl, rfl⟩
  have hat : AtStage .guard raw
      { s with inputs := List.replicate n .txPop, phase := .proc, stage := .guard } :=
    ⟨rfl, rfl, hframe, hlegal, hquiet⟩
  obtain ⟨k, t, -, hrun, hend⟩ := hat.endsWithin_guard
  exact ⟨k + 1, t, (run_succ k (rxEndStartsTheTransaction s _ hi hp)).trans hrun, hend⟩

/-- After a transaction the pops of its response bring the block to the idle state (30_encoding R57). -/
theorem run_drain {res : Result} (h : Ends (setInputs (drain res.response) s) t res)
    (hne : ∀ resp, res.response = some resp → resp ≠ []) :
    ∃ k u, Host.Core.run Sys2Proof.core k t = .next u ∧ Idle u ∧ u.inputs = [] ∧ u.cfg = s.cfg ∧
      u.diags = s.diags ++ [res.diag] ∧ u.sent = s.sent ++ marked (res.response.getD []) := by
  obtain ⟨hcfg, hinputs, hsent, hnone, hsome⟩ := h
  cases hresp : res.response with
  | none =>
    obtain ⟨hidle, hdiags⟩ := hnone hresp
    rw [hresp] at hinputs
    exact ⟨0, t, rfl, hidle, hinputs, hcfg, hdiags, hsent.trans (List.append_nil _).symm⟩
  | some resp =>
    obtain ⟨hphase, hstage, htxlen, htxptr, hrxlen, hrxovf, hdiags, hbytes⟩ := hsome resp hresp
    rw [hresp] at hinputs
    have hrun := run_txPops (hne resp hresp) hinputs hphase (by rw [htxptr, htxlen, Nat.zero_add])
      (fun i hi => by rw [htxptr, Nat.zero_add, hbytes i hi])
    exact ⟨_, _, hrun, ⟨rfl, hstage, hrxlen, hrxovf, rfl, rfl⟩, rfl, hcfg, hdiags,
      congrArg (· ++ marked resp) hsent⟩

/-- Settles O57: the pushes leave the buffer or the overflow mark, the transaction computes the function of it, and the pops
deliver its response. -/
theorem submitAndDrainGivesProcessCommand : Obligations.SubmitAndDrainGivesProcessCommand := by
  unfold Obligations.SubmitAndDrainGivesProcessCommand
  rintro s raw ⟨hp, -, hrxlen, hrxovf, -, -⟩ hlegal
  refine ⟨fun hfits hi => ?_, fun hlong hi => ?_⟩
  · rw [submit, List.append_assoc] at hi
    have hpush := run_rxBytes_of_fits hp hi (by rwa [hrxlen, Nat.zero_add])
    have hevent : processEvent s.cfg s.rxovf raw = processCommand s.cfg raw := by
      rw [processEvent, hrxovf]
      rfl
    obtain ⟨k, t, hrun, hend⟩ :=
      run_from_rxEnd (s := received raw (.rxEnd :: drain (processCommand s.cfg raw).response) s) hp rfl
        (holdsFrame_received hrxlen) hlegal
    obtain ⟨j, u, hdrain, hfinal⟩ := run_drain (hevent ▸ hend) fun resp => response_ne_nil hlegal
    exact ⟨_, u, run_add (run_add hpush hrun) hdrain, hfinal⟩
  · obtain ⟨stored, hpush⟩ := run_rxBytes_overflowing hp hrxlen hi hlong
    obtain ⟨k, t, hrun, hcfg, hinputs, hsent, hnone, -⟩ :=
      run_from_rxEnd (n := 0) (s := { received stored [.rxEnd] s with rxovf := true }) hp rfl
        (holdsFrame_received (rest := [.rxEnd]) hrxlen) hlegal
    obtain ⟨hidle, hdiags⟩ := hnone rfl
    exact ⟨_, t, run_add hpush hrun, hidle, hinputs, hcfg, hdiags, hsent⟩

end Sys2Proof.Proofs

end

/-! PROOFS. The rejections: what one does, which check a transaction reports, and that the block always has a next step
(60_exceptions R131 to R139). -/

section

namespace Sys2Proof.Proofs

open Sys2Proof.Machine Sys2Proof.Safety Sys2Proof.Laws

variable {p : Params} {s : State} {raw : List Byte}

/-! ### O20 -/

/-- Settles O20: the fields that `reject` writes are those R137 lists, and they make the idle state. -/
theorem rejectionDoesThisAndNothingElse : Obligations.RejectionDoesThisAndNothingElse := by
  unfold Obligations.RejectionDoesThisAndNothingElse
  exact fun c s => ⟨rfl, idle_reject c s⟩

/-! ### Every stage completes under the invariant -/

/-- An index of the filled part holds a byte. -/
theorem exists_byte_of_filled {m : Memory} {n i : Nat} (h : Filled m n) (hi : i < n) : ∃ b, m.get? i = some b :=
  Option.isSome_iff_exists.1 (h i hi)

/-- A choice between two next states is a next state. -/
theorem exists_next_ite (c : Prop) [Decidable c] (t u : State) :
    ∃ v, (if c then .next t else .next u : Host.Outcome State Fault Refusal) = .next v :=
  ⟨if c then t else u, (apply_ite Host.Outcome.next c t u).symm⟩

/-- The byte that ST_GUARD looks at has been received (20_memory R37). -/
theorem stageGuard_completes (h : Inv s) (hp : s.phase = .proc) : ∃ t, stageGuard s = .next t := by
  cases hovf : s.rxovf with
  | true => exact ⟨_, if_pos hovf⟩
  | false =>
    cases hread : guardReadsFirst s.cfg s.rxlen with
    | false => exact ⟨_, stageGuard_of_first_unread hovf hread⟩
    | true =>
      have hpos : 0 < s.rxlen := pos_of_guardReadsFirst h.legal hread
      obtain ⟨b, hb⟩ := exists_byte_of_filled h.rxFilled hpos
      rw [stageGuard_of_first_read hp hovf hread hpos hb]
      cases guardCause s.cfg s.rxlen (some b) with
      | none => exact ⟨_, rfl⟩
      | some c => exact ⟨_, rfl⟩

/-- The last two bytes of a buffer of two or more have been received. -/
theorem stageExtract_completes (h : Inv s) (hp : s.phase = .proc) (hlen : 2 ≤ s.rxlen) :
    ∃ t, stageExtract s = .next t := by
  obtain ⟨low, hlow⟩ := exists_byte_of_filled h.rxFilled (i := s.rxlen - 2) (by omega)
  obtain ⟨high, hhigh⟩ := exists_byte_of_filled h.rxFilled (i := s.rxlen - 1) (by omega)
  exact ⟨_, stageExtract_of_last_bytes hp hlen hlow hhigh⟩

/-- The covered bytes have been received, so the CRC loop reads them all. -/
theorem stageVerify_completes (h : Inv s) (hp : s.phase = .proc) : ∃ t, stageVerify s = .next t := by
  cases hv : verifyRxCrc s.cfg with
  | false => exact ⟨setStage .dispatch s, by simp [stageVerify, hv]⟩
  | true =>
    obtain ⟨raw, hframe⟩ := exists_holdsFrame h.rxFilled
    obtain ⟨hlen, hbytes⟩ := coveredBytes_of_holdsFrame hframe
    rw [stageVerify_of_covered hp hv hlen hbytes]
    exact exists_next_ite _ _ _

/-- The code byte has been received where the guard of ST_DISPATCH finds the buffer long enough. -/
theorem stageDispatch_completes (h : Inv s) (hp : s.phase = .proc) : ∃ t, stageDispatch s = .next t := by
  obtain hshort | hlong := le_or_gt s.rxlen s.cfg.consts.cmdIndex
  · exact ⟨_, stageDispatch_of_no_command_byte hshort⟩
  · obtain ⟨c, hc⟩ := exists_byte_of_filled h.rxFilled hlong
    exact ⟨_, stageDispatch_of_command_byte hp hlong hc⟩

/-- In a transaction that meets the invariant the stage it is at has a next state (43_port_operations R118). -/
theorem runStage_completes (h : Inv s) (hp : s.phase = .proc) : ∃ t, runStage s = .next t := by
  obtain ⟨hne, -, -, hpast⟩ := (phaseOk_proc hp).1 h.phaseOk
  unfold runStage
  cases hst : s.stage with
  | idle => exact absurd hst hne
  | guard => exact stageGuard_completes h hp
  | extract =>
    obtain ⟨-, hmin⟩ := hpast (by simp [hst])
    exact stageExtract_completes h hp ((minLen_legal h.legal).1.trans hmin)
  | verify => exact stageVerify_completes h hp
  | dispatch => exact stageDispatch_completes h hp
  | sealing => exact ⟨_, exec_ok _ hp ((paramsLegal_iff _).1 h.legal).1⟩

/-! ### O52 -/

theorem advance_completes (h : Inv s) : ∃ t, advance s = .next t := by
  by_cases hp : s.phase = .proc
  · rw [advance_of_proc hp]
    exact runStage_completes h hp
  · exact ⟨s, advance_of_ne_proc hp⟩

/-- An operation that its phase enables has a next state: the byte TX_POP delivers has been written, and the strap does not
change in PROC (43_port_operations R116 to R122, 70_reset R158). -/
theorem step_completes_of_enabled (h : Inv s) (hstrap : StrapStable s) {op : HostOp} {rest : List HostOp}
    (hi : s.inputs = op :: rest) (he : opEnabled op s.phase = true) : ∃ t, step s = .next t := by
  cases op with
  | rxByte b =>
    have hp : s.phase = .recv := by simpa [opEnabled] using he
    cases hroom : rxHasRoom s.cfg s.rxlen with
    | true => exact ⟨_, step_rxByte_of_room hi hp hroom⟩
    | false => exact ⟨_, step_rxByte_of_full hi hp hroom⟩
  | rxEnd => exact ⟨_, step_eq_perform hi he⟩
  | txPop =>
    have hp : s.phase = .send := by simpa [opEnabled] using he
    obtain ⟨-, -, -, -, -, hlt, hfilled⟩ := (phaseOk_send hp).1 h.phaseOk
    obtain ⟨b, hb⟩ := exists_byte_of_filled hfilled hlt
    rw [txPopDeliversInIndexOrder s rest b hi hp hlt hb]
    exact exists_next_ite _ _ _
  | reset => exact ⟨_, step_reset hi⟩
  | strap pin =>
    have hp : s.phase ≠ .proc := fun hp => hstrap hp pin rest hi
    exact ⟨_, (step_eq_perform hi he).trans (if_neg hp)⟩
  | wait =>
    rw [step_eq_perform hi he]
    exact advance_completes (inv_setInputs rest h)

/-- A step completes whether the host asks for nothing, or its operation is held, or enabled. -/
theorem step_completes (h : Inv s) (hstrap : StrapStable s) : ∃ t, step s = .next t := by
  cases hi : s.inputs with
  | nil =>
    rw [step_eq_advance_of_silent hi]
    exact advance_completes h
  | cons op rest =>
    cases he : opEnabled op s.phase with
    | true => exact step_completes_of_enabled h hstrap hi he
    | false =>
      rw [step_eq_advance_of_held hi he]
      exact advance_completes h

/-- Settles O52: the invariant makes every access of a step legal, and every step keeps it. -/
theorem noInputStopsTheBlock : Obligations.NoInputStopsTheBlock := by
  unfold Obligations.NoInputStopsTheBlock
  intro s h hstrap
  obtain ⟨t, hstep⟩ := step_completes h hstrap
  exact ⟨t, hstep, everyStepKeepsTheInvariant s t h hstep⟩

/-! ### The first check that fails -/

/-- ST_GUARD of `V1_EARLY`: length, then sync byte (60_exceptions R136). -/
theorem guardCause_v1Early (hp : paramsLegal p = true) (hv : p.variant = .v1Early) :
    guardCause p raw.length raw[0]? =
      if raw.length < p.consts.minLenV1 then some .short
      else if raw[0]? = some p.consts.sync then none else some .sync := by
  have hmin : minLen p = p.consts.minLenV1 := by simp [minLen, hv]
  have htwo := (minLen_legal hp).1
  rw [← hmin]
  split_ifs with hshort hsync
  · simp [guardCause, lenBeforeSync, hv, tooShort, hshort]
  · exact guardCause_eq_none_iff.2 ⟨by omega, hsync⟩
  · have hfirst : raw[0]? = some raw[0] := List.getElem?_eq_getElem (by omega)
    rw [hfirst, Option.some.injEq] at hsync
    rw [hfirst, guardCause_of_minLen_le (by omega), if_neg hsync]

/-- ST_GUARD of `V2_CRC`: emptiness, then sync byte, then length (60_exceptions R136). -/
theorem guardCause_v2Crc (hv : p.variant = .v2Crc) :
    guardCause p raw.length raw[0]? =
      if raw = [] then some .short
      else if raw[0]? ≠ some p.consts.sync then some .sync
      else if raw.length < p.minLenV2 then some .short else none := by
  have hsyncFirst : lenBeforeSync p = false := by simp [lenBeforeSync, hv]
  have hmin : minLen p = p.minLenV2 := by simp [minLen, hv]
  cases raw with
  | nil => simp
  | cons b bs =>
    rw [List.getElem?_cons_zero, guardCause_of_syncFirst hsyncFirst, hmin]
    simp

/-- When ST_GUARD finds a buffer too short (60_exceptions R131). -/
theorem guardCause_eq_short_iff (hp : paramsLegal p = true) :
    guardCause p raw.length raw[0]? = some .short ↔
      p.variant = .v1Early ∧ raw.length < p.consts.minLenV1 ∨
        p.variant = .v2Crc ∧ (raw = [] ∨ raw[0]? = some p.consts.sync ∧ raw.length < p.minLenV2) := by
  cases hv : p.variant with
  | v1Early =>
    simp [guardCause_v1Early hp hv, ite_eq_iff]
  | v2Crc =>
    simp [guardCause_v2Crc hv, ite_eq_iff, or_iff_not_imp_left]

/-- When ST_GUARD finds a wrong first byte (60_exceptions R132). -/
theorem guardCause_eq_sync_iff (hp : paramsLegal p = true) :
    guardCause p raw.length raw[0]? = some .sync ↔
      raw[0]? ≠ some p.consts.sync ∧
        (p.variant = .v1Early ∧ p.consts.minLenV1 ≤ raw.length ∨ p.variant = .v2Crc ∧ raw ≠ []) := by
  cases hv : p.variant with
  | v1Early =>
    simp [guardCause_v1Early hp hv, ite_eq_iff, and_comm]
  | v2Crc =>
    simp [guardCause_v2Crc hv, ite_eq_iff, and_comm]

/-- ST_GUARD's own checks do not find an overflow. -/
theorem guardCause_ne_overflow (n : Nat) (first : Option Byte) : guardCause p n first ≠ some .overflow := by
  cases first with
  | none => simp
  | some b =>
    simp only [guardCause]
    split_ifs <;> nofun

theorem exists_claimedOf (h : 2 ≤ raw.length) : ∃ w, claimedOf raw = some w := by
  obtain ⟨body, low, high, rfl⟩ := exists_append_pair h
  exact ⟨_, claimedOf_append_pair body low high⟩

/-- Validation finds the fault ST_GUARD finds, or, behind it, the CRC mismatch (60_exceptions R133, R136). -/
theorem validateFrame_eq_some_iff (hp : paramsLegal p = true) {c : Cause} :
    validateFrame p raw = some c ↔
      guardCause p raw.length raw[0]? = some c ∨
        guardCause p raw.length raw[0]? = none ∧ verifyRxCrc p = true ∧ ∃ w, claimedOf raw = some w ∧
          computeCrc p.consts (coveredBytes raw) ≠ w ∧ .crc (computeCrc p.consts (coveredBytes raw)) w = c := by
  unfold validateFrame
  cases hguard : guardCause p raw.length raw[0]? with
  | some cause => simp
  | none =>
    obtain ⟨w, hw⟩ := exists_claimedOf ((minLen_legal hp).1.trans (guardCause_none hguard).1)
    cases hv : verifyRxCrc p with
    | false => simp [hw]
    | true => simp [hw, crcBad]

/-! ### O21 -/

/-- With the given constants a validated buffer is answered (42_command_mux R95). -/
theorem processCommand_of_validated (hp : paramsLegal p = true) (hc : p.consts = constants)
    (hval : validateFrame p raw = none) : ∃ code, processCommand p raw = respondTo p code := by
  have hlen := two_lt_length_of_validateFrame hp hc hval
  have hcode : codeOf p.consts raw = some raw[2] := by
    rw [codeOf, hc]
    exact List.getElem?_eq_getElem hlen
  exact ⟨raw[2], by rw [processCommand_of_validateFrame_eq_none hval, hcode, Option.elim_some]⟩

/-- With the given constants the cause that `process_command` reports is the fault that validation finds. -/
theorem processCommand_rejects_iff (hp : paramsLegal p = true) (hc : p.consts = constants) (c : Cause) :
    (processCommand p raw).diag = .rejected c ↔ validateFrame p raw = some c := by
  cases hval : validateFrame p raw with
  | some cause => simp [processCommand_of_validateFrame_eq_some hval, Result.raise]
  | none =>
    obtain ⟨code, hcode⟩ := processCommand_of_validated hp hc hval
    simp [hcode, respondTo_diag_ne_rejected]

/-- With the given constants `process_command` answers the buffers that pass validation. -/
theorem processCommand_answers_iff (hp : paramsLegal p = true) (hc : p.consts = constants) :
    (processCommand p raw).response.isSome = true ↔ validateFrame p raw = none := by
  cases hval : validateFrame p raw with
  | some cause => simp [processCommand_of_validateFrame_eq_some hval, Result.raise]
  | none =>
    obtain ⟨code, hcode⟩ := processCommand_of_validated hp hc hval
    simp [hcode, respondTo]

/-- Settles O21: overflow hides every other cause; without it the cause is the fault that validation finds, ST_GUARD's in
the order of the variant or else the CRC mismatch. -/
theorem rejectionCauseIsThatOfTheFirstFailingCheck : Obligations.RejectionCauseIsThatOfTheFirstFailingCheck := by
  unfold Obligations.RejectionCauseIsThatOfTheFirstFailingCheck
  intro p ovf raw hp hc
  have hsync : p.consts.sync = 0xAA := by rw [hc]; rfl
  have hmin : p.consts.minLenV1 = 5 := by rw [hc]; rfl
  cases ovf with
  | true => simp [processEvent, Result.raise]
  | false =>
    have hevent : processEvent p false raw = processCommand p raw := rfl
    simp only [hevent, ne_eq, processCommand_rejects_iff hp hc, processCommand_answers_iff hp hc, true_and]
    refine ⟨?overflow, ?short, ?sync, ?crc, Option.eq_none_iff_forall_ne_some⟩
    case overflow => simp [validateFrame_eq_some_iff hp, guardCause_ne_overflow]
    case short => simp [validateFrame_eq_some_iff hp, guardCause_eq_short_iff hp, hsync, hmin]
    case sync => simp [validateFrame_eq_some_iff hp, guardCause_eq_sync_iff hp, hsync, hmin]
    case crc =>
      intro computed claimed
      rw [validateFrame_eq_some_iff hp, guardCause_eq_none_iff, hsync, hc]
      simp only [guardCause_ne_crc, false_or, Cause.crc.injEq]
      constructor
      · rintro ⟨⟨hlen, hfirst⟩, hv, w, hw, hne, rfl, rfl⟩
        exact ⟨hfirst, hlen, hv, rfl, hw, hne⟩
      · rintro ⟨hfirst, hlen, hv, rfl, hw, hne⟩
        exact ⟨⟨hlen, hfirst⟩, hv, claimed, hw, hne, rfl, rfl⟩

end Sys2Proof.Proofs

end

/-! PROOFS. The state after reset and the strap: the idle state, the invariant at reset, and what the strap changes
(10_state R22, 70_reset R158). -/

section

namespace Sys2Proof.Proofs

open Sys2Proof.Machine Sys2Proof.Safety Sys2Proof.Laws

variable {s : State}

/-! ### O42 -/

/-- Inside PROC a strap change is refused (70_reset R158; entry 8). -/
theorem opStrap_of_proc (pin : Bool) (hp : s.phase = .proc) : opStrap pin s = .refused .strapChangedInProc :=
  if_pos hp

/-- Outside PROC the strap sets the variant (70_reset R158; entry 8). -/
theorem opStrap_of_ne_proc (pin : Bool) (hp : s.phase ≠ .proc) :
    opStrap pin s = .next { s with cfg := { s.cfg with variant := variantOfPin pin } } :=
  if_neg hp

/-- A strap change is enabled in every phase, so it is never left waiting in the queue. -/
theorem step_strap {pin : Bool} {rest : List HostOp} (hi : s.inputs = .strap pin :: rest) :
    step s = opStrap pin (setInputs rest s) :=
  step_eq_perform hi rfl

/-- Settles O42: the step is the strap's own operation, which looks at the phase alone. -/
theorem strapSelectsTheNextVariant : Obligations.StrapSelectsTheNextVariant := by
  unfold Obligations.StrapSelectsTheNextVariant
  intro s pin rest hi
  rw [step_strap hi]
  exact ⟨opStrap_of_ne_proc (s := setInputs rest s) pin, opStrap_of_proc (s := setInputs rest s) pin⟩

/-! ### O49 -/

theorem idle_reset : Idle State.reset :=
  ⟨rfl, rfl, rfl, rfl, rfl, rfl⟩

/-- Settles O49: the reset state is idle, and its other registers are written out in its definition. -/
theorem resetStateIsIdle : Obligations.ResetStateIsIdle := by
  unfold Obligations.ResetStateIsIdle
  exact ⟨idle_reset, rfl, rfl, rfl, rfl, rfl, rfl, rfl⟩

/-! ### O50 -/

/-- The parameters of the reset state are legal: `MIN_LEN_V2` is 5, and an unbounded buffer bounds no template
(00_scope section 4). -/
theorem defaultParams_legal : paramsLegal defaultParams = true :=
  (paramsLegal_iff defaultParams).2 ⟨constants_legal, by decide, by decide, nofun, fun _ _ => rfl⟩

/-- An idle state has received nothing and sends nothing, so of the invariant only the parameters, the shape of the
buffers and the width of `IDX` are left to ask for (10_state R22). -/
theorem inv_of_idle (h : Idle s) (hlegal : paramsLegal s.cfg = true) (hrx : s.rxbuf.wf = true)
    (htx : s.txbuf.wf = true) (hidx : fitsIndexWidth s.cfg s.idx = true) : Inv s := by
  obtain ⟨hphase, hstage, hrxlen, hrxovf, htxlen, htxptr⟩ := h
  exact {
    legal := hlegal
    rxCanonical := hrx
    txCanonical := htx
    rxFilled := hrxlen ▸ filled_zero _
    rxCapacity := hrxlen ▸ rxFits_zero _
    ovfFull := fun hovf => absurd (hrxovf.symm.trans hovf) nofun
    idxWidth := hidx
    phaseOk := (phaseOk_recv hphase).2 ⟨hstage, htxlen, htxptr⟩ }

/-- Settles O50: the reset state is idle with legal parameters, empty buffers and `IDX` 0. -/
theorem invariantHoldsAtReset : Obligations.InvariantHoldsAtReset := by
  unfold Obligations.InvariantHoldsAtReset
  exact inv_of_idle idle_reset defaultParams_legal nil_wf nil_wf rfl

end Sys2Proof.Proofs

end
